-- ==== Sys2Proof/Word.lean ====
section
/-! DEFINITION. The value types of the machine (spec 00_scope.md R9, R10: every quantity is unsigned). -/

namespace Sys2Proof

/-- Eight bits: a register, a timer, a memory cell, an immediate `kk` (R9, XLEN). -/
abbrev Byte := BitVec 8

/-- Sixteen bits: I, pc, a return address, an opcode (R9, I_BITS, PC_BITS, ILEN). -/
abbrev Word := BitVec 16

/-- Twelve bits: an address of the 4096-byte memory, an immediate `nnn` (R9, ADDR_BITS; R50, R73). -/
abbrev Addr := BitVec 12

/-- Four bits: an opcode's nibble, the sprite height `n` (R71, R73). -/
abbrev Nibble := BitVec 4

/-- The number of a general register, V0 to VF (R21). -/
abbrev Reg := Fin 16

/-- The number of a key latch, 0x0 to 0xF (R30). -/
abbrev Key := Fin 16

/-- V0, the base register of `Bnnn` (R108). -/
abbrev Reg.v0 : Reg := 0

/-- VF, the register that doubles as the flag (R21, R22). -/
abbrev Reg.vF : Reg := 15

end Sys2Proof
end

