-- ==== Sys2Proof/Syntax.lean ====
section
/-! DEFINITION. The 34 instruction forms, one constructor per row of spec/opcode_table.json in the
table's order (spec 30_encoding.md R75), and the assembler lines that spell them (R80).

The operands have the types of the fields they come from (R71, R73), so every term of `Instr` is a
form the encoding admits. -/

namespace Sys2Proof

inductive Instr where
  /-- `00E0` CLS (R151) -/
  | cls
  /-- `00EE` RET (R101) -/
  | ret
  /-- `1nnn` JP nnn (R102) -/
  | jp (nnn : Addr)
  /-- `2nnn` CALL nnn (R103) -/
  | call (nnn : Addr)
  /-- `3xkk` SE Vx, kk (R104) -/
  | se (x : Reg) (kk : Byte)
  /-- `4xkk` SNE Vx, kk (R105) -/
  | sne (x : Reg) (kk : Byte)
  /-- `5xy0` SE Vx, Vy (R106) -/
  | seReg (x y : Reg)
  /-- `6xkk` LD Vx, kk (R121) -/
  | ld (x : Reg) (kk : Byte)
  /-- `7xkk` ADD Vx, kk (R122) -/
  | add (x : Reg) (kk : Byte)
  /-- `8xy0` LD Vx, Vy (R123) -/
  | ldReg (x y : Reg)
  /-- `8xy1` OR Vx, Vy (R124) -/
  | or (x y : Reg)
  /-- `8xy2` AND Vx, Vy (R125) -/
  | and (x y : Reg)
  /-- `8xy3` XOR Vx, Vy (R126) -/
  | xor (x y : Reg)
  /-- `8xy4` ADD Vx, Vy (R127) -/
  | addReg (x y : Reg)
  /-- `8xy5` SUB Vx, Vy (R128) -/
  | sub (x y : Reg)
  /-- `8xy6` SHR Vx, Vy (R129); y is carried and never read (R78, R82) -/
  | shr (x y : Reg)
  /-- `8xy7` SUBN Vx, Vy (R130) -/
  | subn (x y : Reg)
  /-- `8xyE` SHL Vx, Vy (R131); y is carried and never read (R78, R82) -/
  | shl (x y : Reg)
  /-- `9xy0` SNE Vx, Vy (R107) -/
  | sneReg (x y : Reg)
  /-- `Annn` LD I, nnn (R141) -/
  | ldI (nnn : Addr)
  /-- `Bnnn` JP V0, nnn (R108) -/
  | jpV0 (nnn : Addr)
  /-- `Cxkk` RND Vx, kk (R133) -/
  | rnd (x : Reg) (kk : Byte)
  /-- `Dxyn` DRW Vx, Vy, n (R152) -/
  | drw (x y : Reg) (n : Nibble)
  /-- `Ex9E` SKP Vx (R161) -/
  | skp (x : Reg)
  /-- `ExA1` SKNP Vx (R162) -/
  | sknp (x : Reg)
  /-- `Fx07` LD Vx, DT (R164) -/
  | ldVxDT (x : Reg)
  /-- `Fx0A` LD Vx, K (R163) -/
  | ldVxK (x : Reg)
  /-- `Fx15` LD DT, Vx (R165) -/
  | ldDTVx (x : Reg)
  /-- `Fx18` LD ST, Vx (R166) -/
  | ldSTVx (x : Reg)
  /-- `Fx1E` ADD I, Vx (R142) -/
  | addIVx (x : Reg)
  /-- `Fx29` LD F, Vx (R143) -/
  | ldFVx (x : Reg)
  /-- `Fx33` LD B, Vx (R144) -/
  | ldBVx (x : Reg)
  /-- `Fx55` LD [I], Vx (R145) -/
  | ldMemVx (x : Reg)
  /-- `Fx65` LD Vx, [I] (R146) -/
  | ldVxMem (x : Reg)
deriving DecidableEq, Repr

/-- The assembler mnemonics; several forms share one (R80). -/
inductive Mnemonic where
  | CLS | RET | JP | CALL | SE | SNE | LD | ADD | OR | AND | XOR
  | SUB | SHR | SUBN | SHL | RND | DRW | SKP | SKNP
deriving DecidableEq, Repr

/-- An operand as the assembler writes it (R80): a register by its number, a number, or one of the
literal keywords. Numbers are not yet checked against the width of their field. -/
inductive AsmOperand where
  /-- `V0` to `VF` -/
  | reg (x : Nat)
  /-- a number, `nnn`, `kk` or `n` -/
  | num (n : Nat)
  /-- `I` -/
  | idx
  /-- `DT` -/
  | delay
  /-- `ST` -/
  | sound
  /-- `K` -/
  | key
  /-- `F` -/
  | font
  /-- `B` -/
  | bcd
  /-- `[I]` -/
  | atIdx
deriving DecidableEq, Repr

/-- One assembler line: the mnemonic and the operands, destination first (R80). -/
structure AsmLine where
  mnemonic : Mnemonic
  operands : List AsmOperand
deriving DecidableEq, Repr

end Sys2Proof
end

