-- ==== Sys2Proof/WellFormed.lean ====
section
/-! DEFINITION. Which assembler lines are well formed (spec 30_encoding.md R80).

An `Instr` needs no check: its operands have the widths of their fields (R71), every register number
is legal (R21) and every immediate value is accepted (R73). The checks are on the line an instruction
is assembled from: "`nnn`, `kk`, `n` for a number that must fit 12, 8, 4 bits, else the assembler
rejects the line", register names are V0 to VF, and mnemonic and operand shapes together select the
form. Notation only: DESIGN CHOICE of the spec (D23), safe (log 22). -/

namespace Sys2Proof

/-- A register name is one of V0 to VF. -/
def regOk (x : Nat) : Bool := x < 16

/-- An address operand fits 12 bits. -/
def addrOk (n : Nat) : Bool := n < 4096

/-- An immediate byte fits 8 bits. -/
def byteOk (n : Nat) : Bool := n < 256

/-- A sprite height fits 4 bits. -/
def nibbleOk (n : Nat) : Bool := n < 16

/-- The line spells one of the 34 forms and its numbers fit their fields (R75's assembler column). -/
def AsmLine.wellFormed (l : AsmLine) : Bool :=
  match l.mnemonic, l.operands with
  | .CLS, [] => true
  | .RET, [] => true
  | .JP, [.num n] => addrOk n
  | .JP, [.reg 0, .num n] => addrOk n
  | .CALL, [.num n] => addrOk n
  | .SE, [.reg x, .num k] => regOk x && byteOk k
  | .SE, [.reg x, .reg y] => regOk x && regOk y
  | .SNE, [.reg x, .num k] => regOk x && byteOk k
  | .SNE, [.reg x, .reg y] => regOk x && regOk y
  | .LD, [.reg x, .num k] => regOk x && byteOk k
  | .LD, [.reg x, .reg y] => regOk x && regOk y
  | .LD, [.idx, .num n] => addrOk n
  | .LD, [.reg x, .delay] => regOk x
  | .LD, [.reg x, .key] => regOk x
  | .LD, [.delay, .reg x] => regOk x
  | .LD, [.sound, .reg x] => regOk x
  | .LD, [.font, .reg x] => regOk x
  | .LD, [.bcd, .reg x] => regOk x
  | .LD, [.atIdx, .reg x] => regOk x
  | .LD, [.reg x, .atIdx] => regOk x
  | .ADD, [.reg x, .num k] => regOk x && byteOk k
  | .ADD, [.reg x, .reg y] => regOk x && regOk y
  | .ADD, [.idx, .reg x] => regOk x
  | .OR, [.reg x, .reg y] => regOk x && regOk y
  | .AND, [.reg x, .reg y] => regOk x && regOk y
  | .XOR, [.reg x, .reg y] => regOk x && regOk y
  | .SUB, [.reg x, .reg y] => regOk x && regOk y
  | .SHR, [.reg x, .reg y] => regOk x && regOk y
  | .SUBN, [.reg x, .reg y] => regOk x && regOk y
  | .SHL, [.reg x, .reg y] => regOk x && regOk y
  | .RND, [.reg x, .num k] => regOk x && byteOk k
  | .DRW, [.reg x, .reg y, .num n] => regOk x && regOk y && nibbleOk n
  | .SKP, [.reg x] => regOk x
  | .SKNP, [.reg x] => regOk x
  | _, _ => false

end Sys2Proof
end

