-- ==== Sys2Proof/Decode.lean ====
section
/-! DEFINITION. Decode and encode (spec 30_encoding.md): the field extraction, the decoder, the
encoder, the table of patterns both are held against, and the assembler. -/

namespace Sys2Proof

/-! ## Fields (R71) -/

/-- The high nibble, bits 15 to 12: the primary opcode. -/
def fieldH (op : Word) : Nibble := op.extractLsb' 12 4

/-- `x`, bits 11 to 8: a register number. -/
def fieldX (op : Word) : Reg := (op.extractLsb' 8 4).toFin

/-- `y`, bits 7 to 4: a register number. -/
def fieldY (op : Word) : Reg := (op.extractLsb' 4 4).toFin

/-- `n`, bits 3 to 0. -/
def fieldN (op : Word) : Nibble := op.extractLsb' 0 4

/-- `kk`, bits 7 to 0. -/
def fieldKK (op : Word) : Byte := op.extractLsb' 0 8

/-- `nnn`, bits 11 to 0. -/
def fieldNNN (op : Word) : Addr := op.extractLsb' 0 12

/-- A register number as the four bits of its field. -/
def regBits (x : Reg) : Nibble := BitVec.ofFin x

/-- Two consecutive bytes as an opcode, big-endian: the byte at the lower address is bits 15 to 8
(R54, R70). -/
def wordOfBytes (hi lo : Byte) : Word := hi ++ lo

/-- The byte of an opcode that lies at the lower address (R70). -/
def highByte (op : Word) : Byte := op.extractLsb' 8 8

/-- The byte of an opcode that lies at the higher address (R70). -/
def lowByte (op : Word) : Byte := op.extractLsb' 0 8

/-! ## The decoder (R74, R75, R76) -/

/-- The words whose high nibble is 0: exactly two of them are instructions (R75 rows 1 and 2, R77). -/
def decode0 (op : Word) : Option Instr :=
  if op = 0x00E0 then some .cls
  else if op = 0x00EE then some .ret
  else none

/-- The words `8xyN`, by their secondary nibble (R75 rows 10 to 18). -/
def decode8 (op : Word) : Option Instr :=
  let x := fieldX op
  let y := fieldY op
  let n := fieldN op
  if n = 0x0 then some (.ldReg x y)
  else if n = 0x1 then some (.or x y)
  else if n = 0x2 then some (.and x y)
  else if n = 0x3 then some (.xor x y)
  else if n = 0x4 then some (.addReg x y)
  else if n = 0x5 then some (.sub x y)
  else if n = 0x6 then some (.shr x y)
  else if n = 0x7 then some (.subn x y)
  else if n = 0xE then some (.shl x y)
  else none

/-- The words `ExKK`, by their secondary byte (R75 rows 24 and 25). -/
def decodeE (op : Word) : Option Instr :=
  let x := fieldX op
  if fieldKK op = 0x9E then some (.skp x)
  else if fieldKK op = 0xA1 then some (.sknp x)
  else none

/-- The words `FxKK`, by their secondary byte (R75 rows 26 to 34). -/
def decodeF (op : Word) : Option Instr :=
  let x := fieldX op
  if fieldKK op = 0x07 then some (.ldVxDT x)
  else if fieldKK op = 0x0A then some (.ldVxK x)
  else if fieldKK op = 0x15 then some (.ldDTVx x)
  else if fieldKK op = 0x18 then some (.ldSTVx x)
  else if fieldKK op = 0x1E then some (.addIVx x)
  else if fieldKK op = 0x29 then some (.ldFVx x)
  else if fieldKK op = 0x33 then some (.ldBVx x)
  else if fieldKK op = 0x55 then some (.ldMemVx x)
  else if fieldKK op = 0x65 then some (.ldVxMem x)
  else none

/-- The instruction a word is, or the verdict unknown (R82): dispatch on the high nibble, then on the
secondary nibble or byte; every fixed bit is matched, those of `5xy0` and `9xy0` too (R74).
The exact match where the source's dispatch sentence is lenient is the spec's choice (D7, D8; log 13). -/
def decodeWord (op : Word) : Option Instr :=
  let x := fieldX op
  let y := fieldY op
  let h := fieldH op
  if h = 0x0 then decode0 op
  else if h = 0x1 then some (.jp (fieldNNN op))
  else if h = 0x2 then some (.call (fieldNNN op))
  else if h = 0x3 then some (.se x (fieldKK op))
  else if h = 0x4 then some (.sne x (fieldKK op))
  else if h = 0x5 then (if fieldN op = 0 then some (.seReg x y) else none)
  else if h = 0x6 then some (.ld x (fieldKK op))
  else if h = 0x7 then some (.add x (fieldKK op))
  else if h = 0x8 then decode8 op
  else if h = 0x9 then (if fieldN op = 0 then some (.sneReg x y) else none)
  else if h = 0xA then some (.ldI (fieldNNN op))
  else if h = 0xB then some (.jpV0 (fieldNNN op))
  else if h = 0xC then some (.rnd x (fieldKK op))
  else if h = 0xD then some (.drw x y (fieldN op))
  else if h = 0xE then decodeE op
  else decodeF op  -- the sixteenth nibble, 0xF

/-- What the decoder says of a list of bytes. -/
inductive Decoded where
  /-- an instruction, and the bytes after it -/
  | instr (i : Instr) (rest : List Byte)
  /-- the first two bytes are a word that matches no form: `UnknownOpcode` (R76, R171) -/
  | unknownOpcode (op : Word)
  /-- fewer than two bytes: no word to decode (an instruction is always two bytes, R70) -/
  | truncated
deriving DecidableEq, Repr

/-- Decode the instruction at the head of a list of bytes, total on any bytes (R70, R82). -/
def decode : List Byte → Decoded
  | hi :: lo :: rest =>
    match decodeWord (wordOfBytes hi lo) with
    | some i => .instr i rest
    | none => .unknownOpcode (wordOfBytes hi lo)
  | _ => .truncated

/-! ## The encoder (R72, R75, R82) -/

/-- Format ADDR: `h nnn`. -/
def encADDR (h : Nibble) (nnn : Addr) : Word := h ++ nnn

/-- Format XKK: `h x kk`. -/
def encXKK (h : Nibble) (x : Reg) (kk : Byte) : Word := h ++ regBits x ++ kk

/-- Formats XYS and XYN: `h x y n`. -/
def encXYN (h : Nibble) (x y : Reg) (n : Nibble) : Word := h ++ regBits x ++ regBits y ++ n

/-- Format XS: `h x` and the secondary byte. -/
def encXS (h : Nibble) (x : Reg) (sec : Byte) : Word := h ++ regBits x ++ sec

/-- The word of an instruction (R75's pattern and match columns). -/
def encode : Instr → Word
  | .cls => 0x00E0
  | .ret => 0x00EE
  | .jp nnn => encADDR 0x1 nnn
  | .call nnn => encADDR 0x2 nnn
  | .se x kk => encXKK 0x3 x kk
  | .sne x kk => encXKK 0x4 x kk
  | .seReg x y => encXYN 0x5 x y 0x0
  | .ld x kk => encXKK 0x6 x kk
  | .add x kk => encXKK 0x7 x kk
  | .ldReg x y => encXYN 0x8 x y 0x0
  | .or x y => encXYN 0x8 x y 0x1
  | .and x y => encXYN 0x8 x y 0x2
  | .xor x y => encXYN 0x8 x y 0x3
  | .addReg x y => encXYN 0x8 x y 0x4
  | .sub x y => encXYN 0x8 x y 0x5
  | .shr x y => encXYN 0x8 x y 0x6
  | .subn x y => encXYN 0x8 x y 0x7
  | .shl x y => encXYN 0x8 x y 0xE
  | .sneReg x y => encXYN 0x9 x y 0x0
  | .ldI nnn => encADDR 0xA nnn
  | .jpV0 nnn => encADDR 0xB nnn
  | .rnd x kk => encXKK 0xC x kk
  | .drw x y n => encXYN 0xD x y n
  | .skp x => encXS 0xE x 0x9E
  | .sknp x => encXS 0xE x 0xA1
  | .ldVxDT x => encXS 0xF x 0x07
  | .ldVxK x => encXS 0xF x 0x0A
  | .ldDTVx x => encXS 0xF x 0x15
  | .ldSTVx x => encXS 0xF x 0x18
  | .addIVx x => encXS 0xF x 0x1E
  | .ldFVx x => encXS 0xF x 0x29
  | .ldBVx x => encXS 0xF x 0x33
  | .ldMemVx x => encXS 0xF x 0x55
  | .ldVxMem x => encXS 0xF x 0x65

/-- The two bytes of an instruction as memory holds them, high byte first (R70, R80). -/
def encodeBytes (i : Instr) : List Byte := [highByte (encode i), lowByte (encode i)]

/-- The instruction the decoder reads from a table row's bits: bit 0 of `w` is the least significant
bit of the (only) instruction word, laid out big-endian and given to the decoder. -/
def decodeTableWord (nbits w : Nat) : Option Instr :=
  let op : Word := BitVec.ofNat 16 (w % 2 ^ nbits)
  match decode [highByte op, lowByte op] with
  | .instr i _ => some i
  | .unknownOpcode _ => none
  | .truncated => none

/-! ## The table of patterns (R75) -/

/-- One row of R75: a word `w` is this form exactly when `w &&& mask = value`. -/
structure Row where
  value : Word
  mask : Word
deriving DecidableEq, Repr

/-- The row of R75 an instruction belongs to. -/
def rowOf : Instr → Row
  | .cls => ⟨0x00E0, 0xFFFF⟩
  | .ret => ⟨0x00EE, 0xFFFF⟩
  | .jp _ => ⟨0x1000, 0xF000⟩
  | .call _ => ⟨0x2000, 0xF000⟩
  | .se _ _ => ⟨0x3000, 0xF000⟩
  | .sne _ _ => ⟨0x4000, 0xF000⟩
  | .seReg _ _ => ⟨0x5000, 0xF00F⟩
  | .ld _ _ => ⟨0x6000, 0xF000⟩
  | .add _ _ => ⟨0x7000, 0xF000⟩
  | .ldReg _ _ => ⟨0x8000, 0xF00F⟩
  | .or _ _ => ⟨0x8001, 0xF00F⟩
  | .and _ _ => ⟨0x8002, 0xF00F⟩
  | .xor _ _ => ⟨0x8003, 0xF00F⟩
  | .addReg _ _ => ⟨0x8004, 0xF00F⟩
  | .sub _ _ => ⟨0x8005, 0xF00F⟩
  | .shr _ _ => ⟨0x8006, 0xF00F⟩
  | .subn _ _ => ⟨0x8007, 0xF00F⟩
  | .shl _ _ => ⟨0x800E, 0xF00F⟩
  | .sneReg _ _ => ⟨0x9000, 0xF00F⟩
  | .ldI _ => ⟨0xA000, 0xF000⟩
  | .jpV0 _ => ⟨0xB000, 0xF000⟩
  | .rnd _ _ => ⟨0xC000, 0xF000⟩
  | .drw _ _ _ => ⟨0xD000, 0xF000⟩
  | .skp _ => ⟨0xE09E, 0xF0FF⟩
  | .sknp _ => ⟨0xE0A1, 0xF0FF⟩
  | .ldVxDT _ => ⟨0xF007, 0xF0FF⟩
  | .ldVxK _ => ⟨0xF00A, 0xF0FF⟩
  | .ldDTVx _ => ⟨0xF015, 0xF0FF⟩
  | .ldSTVx _ => ⟨0xF018, 0xF0FF⟩
  | .addIVx _ => ⟨0xF01E, 0xF0FF⟩
  | .ldFVx _ => ⟨0xF029, 0xF0FF⟩
  | .ldBVx _ => ⟨0xF033, 0xF0FF⟩
  | .ldMemVx _ => ⟨0xF055, 0xF0FF⟩
  | .ldVxMem _ => ⟨0xF065, 0xF0FF⟩

/-- The word matches the row (R74). -/
def Row.accepts (r : Row) (op : Word) : Bool := op &&& r.mask == r.value

/-- The 34 rows in the order of R75. -/
def opcodeTable : List Row :=
  [⟨0x00E0, 0xFFFF⟩, ⟨0x00EE, 0xFFFF⟩, ⟨0x1000, 0xF000⟩, ⟨0x2000, 0xF000⟩, ⟨0x3000, 0xF000⟩,
   ⟨0x4000, 0xF000⟩, ⟨0x5000, 0xF00F⟩, ⟨0x6000, 0xF000⟩, ⟨0x7000, 0xF000⟩] ++
  [⟨0x8000, 0xF00F⟩, ⟨0x8001, 0xF00F⟩, ⟨0x8002, 0xF00F⟩, ⟨0x8003, 0xF00F⟩, ⟨0x8004, 0xF00F⟩,
   ⟨0x8005, 0xF00F⟩, ⟨0x8006, 0xF00F⟩, ⟨0x8007, 0xF00F⟩, ⟨0x800E, 0xF00F⟩] ++
  [⟨0x9000, 0xF00F⟩, ⟨0xA000, 0xF000⟩, ⟨0xB000, 0xF000⟩, ⟨0xC000, 0xF000⟩, ⟨0xD000, 0xF000⟩,
   ⟨0xE09E, 0xF0FF⟩, ⟨0xE0A1, 0xF0FF⟩] ++
  [⟨0xF007, 0xF0FF⟩, ⟨0xF00A, 0xF0FF⟩, ⟨0xF015, 0xF0FF⟩, ⟨0xF018, 0xF0FF⟩, ⟨0xF01E, 0xF0FF⟩,
   ⟨0xF029, 0xF0FF⟩, ⟨0xF033, 0xF0FF⟩, ⟨0xF055, 0xF0FF⟩, ⟨0xF065, 0xF0FF⟩]

/-! ## The assembler (R80) -/

/-- The instruction a line's mnemonic and operand shapes select, its numbers reduced to their fields;
`assemble` asks for them to fit first. -/
def AsmLine.select (l : AsmLine) : Option Instr :=
  let r := fun n => Fin.ofNat 16 n
  let b := fun n => BitVec.ofNat 8 n
  let a := fun n => BitVec.ofNat 12 n
  match l.mnemonic, l.operands with
  | .CLS, [] => some .cls
  | .RET, [] => some .ret
  | .JP, [.num n] => some (.jp (a n))
  | .JP, [.reg _, .num n] => some (.jpV0 (a n))
  | .CALL, [.num n] => some (.call (a n))
  | .SE, [.reg x, .num k] => some (.se (r x) (b k))
  | .SE, [.reg x, .reg y] => some (.seReg (r x) (r y))
  | .SNE, [.reg x, .num k] => some (.sne (r x) (b k))
  | .SNE, [.reg x, .reg y] => some (.sneReg (r x) (r y))
  | .LD, [.reg x, .num k] => some (.ld (r x) (b k))
  | .LD, [.reg x, .reg y] => some (.ldReg (r x) (r y))
  | .LD, [.idx, .num n] => some (.ldI (a n))
  | .LD, [.reg x, .delay] => some (.ldVxDT (r x))
  | .LD, [.reg x, .key] => some (.ldVxK (r x))
  | .LD, [.delay, .reg x] => some (.ldDTVx (r x))
  | .LD, [.sound, .reg x] => some (.ldSTVx (r x))
  | .LD, [.font, .reg x] => some (.ldFVx (r x))
  | .LD, [.bcd, .reg x] => some (.ldBVx (r x))
  | .LD, [.atIdx, .reg x] => some (.ldMemVx (r x))
  | .LD, [.reg x, .atIdx] => some (.ldVxMem (r x))
  | .ADD, [.reg x, .num k] => some (.add (r x) (b k))
  | .ADD, [.reg x, .reg y] => some (.addReg (r x) (r y))
  | .ADD, [.idx, .reg x] => some (.addIVx (r x))
  | .OR, [.reg x, .reg y] => some (.or (r x) (r y))
  | .AND, [.reg x, .reg y] => some (.and (r x) (r y))
  | .XOR, [.reg x, .reg y] => some (.xor (r x) (r y))
  | .SUB, [.reg x, .reg y] => some (.sub (r x) (r y))
  | .SHR, [.reg x, .reg y] => some (.shr (r x) (r y))
  | .SUBN, [.reg x, .reg y] => some (.subn (r x) (r y))
  | .SHL, [.reg x, .reg y] => some (.shl (r x) (r y))
  | .RND, [.reg x, .num k] => some (.rnd (r x) (b k))
  | .DRW, [.reg x, .reg y, .num n] => some (.drw (r x) (r y) (BitVec.ofNat 4 n))
  | .SKP, [.reg x] => some (.skp (r x))
  | .SKNP, [.reg x] => some (.sknp (r x))
  | _, _ => none

/-- Assemble a line: its instruction, or none where the assembler rejects the line (R80). -/
def AsmLine.assemble (l : AsmLine) : Option Instr :=
  if l.wellFormed then l.select else none

/-- The one spelling of an instruction (R75's assembler column, R80: shifts with both registers). -/
def Instr.line (i : Instr) : AsmLine :=
  let r := fun (x : Reg) => AsmOperand.reg x.val
  let k := fun (b : Byte) => AsmOperand.num b.toNat
  let a := fun (n : Addr) => AsmOperand.num n.toNat
  match i with
  | .cls => ⟨.CLS, []⟩
  | .ret => ⟨.RET, []⟩
  | .jp nnn => ⟨.JP, [a nnn]⟩
  | .call nnn => ⟨.CALL, [a nnn]⟩
  | .se x kk => ⟨.SE, [r x, k kk]⟩
  | .sne x kk => ⟨.SNE, [r x, k kk]⟩
  | .seReg x y => ⟨.SE, [r x, r y]⟩
  | .ld x kk => ⟨.LD, [r x, k kk]⟩
  | .add x kk => ⟨.ADD, [r x, k kk]⟩
  | .ldReg x y => ⟨.LD, [r x, r y]⟩
  | .or x y => ⟨.OR, [r x, r y]⟩
  | .and x y => ⟨.AND, [r x, r y]⟩
  | .xor x y => ⟨.XOR, [r x, r y]⟩
  | .addReg x y => ⟨.ADD, [r x, r y]⟩
  | .sub x y => ⟨.SUB, [r x, r y]⟩
  | .shr x y => ⟨.SHR, [r x, r y]⟩
  | .subn x y => ⟨.SUBN, [r x, r y]⟩
  | .shl x y => ⟨.SHL, [r x, r y]⟩
  | .sneReg x y => ⟨.SNE, [r x, r y]⟩
  | .ldI nnn => ⟨.LD, [.idx, a nnn]⟩
  | .jpV0 nnn => ⟨.JP, [.reg 0, a nnn]⟩
  | .rnd x kk => ⟨.RND, [r x, k kk]⟩
  | .drw x y n => ⟨.DRW, [r x, r y, .num n.toNat]⟩
  | .skp x => ⟨.SKP, [r x]⟩
  | .sknp x => ⟨.SKNP, [r x]⟩
  | .ldVxDT x => ⟨.LD, [r x, .delay]⟩
  | .ldVxK x => ⟨.LD, [r x, .key]⟩
  | .ldDTVx x => ⟨.LD, [.delay, r x]⟩
  | .ldSTVx x => ⟨.LD, [.sound, r x]⟩
  | .addIVx x => ⟨.ADD, [.idx, r x]⟩
  | .ldFVx x => ⟨.LD, [.font, r x]⟩
  | .ldBVx x => ⟨.LD, [.bcd, r x]⟩
  | .ldMemVx x => ⟨.LD, [.atIdx, r x]⟩
  | .ldVxMem x => ⟨.LD, [r x, .atIdx]⟩

end Sys2Proof
end

