-- ==== Sys2Proof/Config.lean ====
section
/-! DEFINITION. What is fixed for the machine (spec 00_scope.md R9), the defaults of its two open
parameters FONT and MEM_INIT, and the one free value (R133). -/

namespace Sys2Proof

/-- The 80 bytes of the default font: glyph d at `5 * d` (R33). -/
def Config.defaultFontBytes : List Byte :=
  [0xF0, 0x90, 0x90, 0x90, 0xF0] ++
  [0x20, 0x60, 0x20, 0x20, 0x70] ++
  [0xF0, 0x10, 0xF0, 0x80, 0xF0] ++
  [0xF0, 0x10, 0xF0, 0x10, 0xF0] ++
  [0x90, 0x90, 0xF0, 0x10, 0x10] ++
  [0xF0, 0x80, 0xF0, 0x10, 0xF0] ++
  [0xF0, 0x80, 0xF0, 0x90, 0xF0] ++
  [0xF0, 0x10, 0x20, 0x40, 0x40] ++
  [0xF0, 0x90, 0xF0, 0x90, 0xF0] ++
  [0xF0, 0x90, 0xF0, 0x10, 0xF0] ++
  [0xF0, 0x90, 0xF0, 0x90, 0x90] ++
  [0xE0, 0x90, 0xE0, 0x90, 0xE0] ++
  [0xF0, 0x80, 0x80, 0x80, 0xF0] ++
  [0xE0, 0x90, 0x90, 0x90, 0xE0] ++
  [0xF0, 0x80, 0xF0, 0x80, 0xF0] ++
  [0xF0, 0x80, 0xF0, 0x80, 0x80]

/-- The default of the open parameter FONT, an argument of the model (R9, D17): `State.font` holds
the argument, and this is its value in `State.reset` alone.
PRESUMED, unsafe (log 5): the source gives no byte of it; the spec's default is the customary table. -/
def Config.defaultFont : Vector Byte 80 := ⟨Config.defaultFontBytes.toArray, rfl⟩

/-- One byte of the default of MEM_INIT. -/
def Config.defaultMemInitByte : Byte := 0

/-- The default of the open parameter MEM_INIT, an argument of the model (R9, D10): what 0x050 to
0xFFF hold before anything has written them (R37, R202). `State.powerOn` takes the argument, and
this is its value in `State.reset` alone.
DESIGN CHOICE, unsafe (log 4): every byte zero, the spec's default. -/
def Config.defaultMemInit : Vector Byte 4016 := Vector.replicate 4016 Config.defaultMemInitByte

/-- The random byte drawn `n`-th (R133, R186): any of the 256 values, under no law (D12).
A free value, safe (log 2): it has no body, so no proof can know a value of it. -/
opaque Config.rnd (n : Nat) : Byte

/-- Where LOAD puts a program's first byte, and pc after RESET (R9, PROG_BASE). -/
def Config.progBase : Word := 0x200

/-- The longest program LOAD accepts, in bytes: 4096 - 512 (R9, PROG_MAX). -/
def Config.progMax : Nat := 3584

/-- The highest pc from which two bytes can be fetched (R24, R54). -/
def Config.lastFetch : Word := 0xFFE

end Sys2Proof
end

