-- ==== Sys2Proof/Machine/State.lean ====
section
/-! DEFINITION. The state of the machine (spec 10_state.md), its reset value, the transitions the host
may issue (00_scope.md R6), and the reasons a transition can stop (60_exceptions.md R170). -/

namespace Sys2Proof.Machine

/-- The 4096-byte memory (R32, R50): the bytes that differ from what an unlisted address reads as,
addresses strictly rising. -/
abbrev Memory := List Host.Cell

/-- The 32 rows of 64 one-bit pixels; true is lit (R29). -/
abbrev Display := Vector (Vector Bool 64) 32

/-- The atomic transitions of R6, with their arguments. CYCLE's argument `rnd` is the free value
Config.rnd (log 2). -/
inductive Transition where
  /-- RESET, the startup code's `initialise()` (R200) -/
  | reset
  /-- LOAD, the ROM loader's `loadProgram(bytes)` (R203) -/
  | load (bytes : List Byte)
  /-- CYCLE, one fetch, decode and execute (R74) -/
  | cycle
  /-- TICK, the scheduler's `tickTimers()` (R181) -/
  | tick
  /-- KEY, the input source sets or clears a latch (R184) -/
  | key (k : Key) (b : Bool)
  /-- DRAW_ACK, the renderer has consumed a frame (R185) -/
  | drawAck
deriving DecidableEq, Repr

/-- The whole machine: the eleven elements of R20, then the parameter FONT and two fields of the
model's own. -/
@[ext]
structure State where
  /-- general registers V0 to VF (R21); V[15] is the flag VF (R22) -/
  V : Vector Byte 16
  /-- index register, 16 bits stored (R23) -/
  I : Word
  /-- program counter (R24) -/
  pc : Word
  /-- return-address slots, the first `sp` of them valid (R26) -/
  stack : Vector Word 16
  /-- stack depth, 0 to 16 (R26) -/
  sp : Fin 17
  /-- DT (R27) -/
  delayTimer : Byte
  /-- ST (R28) -/
  soundTimer : Byte
  /-- the framebuffer (R29) -/
  display : Display
  /-- key latches; true is held down (R30) -/
  keypad : Vector Bool 16
  /-- the display may have changed since the last DRAW_ACK (R31, R185) -/
  drawFlag : Bool
  /-- the one address space (R32) -/
  memory : Memory
  /-- the open parameter FONT of R9, the constant table RESET copies from (R33, 90_conflicts.md C10):
  any 80 bytes, read by RESET alone and written by nothing (log 5) -/
  font : Vector Byte 80
  /-- the model's own: how many random bytes have been drawn (log 2) -/
  rndCount : Nat
  /-- the model's own: the transitions the host will issue next, the first first (R7; log 1) -/
  schedule : List Transition
deriving DecidableEq, Repr

/-- The machine right after power-on and RESET, nothing loaded (R37, R202), for the default FONT and
MEM_INIT; `State.powerOn` is the same for any others. Every element is at R37's value; memory lists
nothing, so it holds the two defaults (log 4, log 5); draw_flag is 0 by the
spec's decision D11 (log 6); the model's own fields are at DESIGN CHOICE values (log 1, log 2). -/
def State.reset : State where
  V := Vector.replicate 16 0
  I := 0
  pc := 0x0200
  stack := Vector.replicate 16 0
  sp := 0
  delayTimer := 0
  soundTimer := 0
  display := Vector.replicate 32 (Vector.replicate 64 false)
  keypad := Vector.replicate 16 false
  drawFlag := false
  memory := []
  font := Config.defaultFont
  rndCount := 0
  schedule := []

/-- The fault kinds of R170, each with the info it reports (D13; log 7). A fault is the result of one
transition, which changes nothing (R176); there are no others. -/
inductive Fault where
  /-- Raised by CYCLE at decode when the fetched word matches no form (R171). Safe: the spec's own. -/
  | unknownOpcode (op pc : Word)
  /-- Raised by `2nnn` when sp = 16 at entry (R172). Safe: the spec's own. -/
  | stackOverflow (pc : Word)
  /-- Raised by `00EE` when sp = 0 at entry (R173). Safe: the spec's own. -/
  | stackUnderflow (pc : Word)
  /-- Raised by CYCLE before the fetch when pc > 0xFFE (R174, D3). Safe: the machine stops where the
  source gives no mechanism (log 9). -/
  | pcOutOfRange (pc : Word)
  /-- Raised by LOAD of more than 3584 bytes (R175). Safe: the spec's own. -/
  | programTooLarge (length : Nat)
deriving DecidableEq, Repr

/-- The numeric code of a fault kind (R170, D13: the numbers carry no meaning). -/
def Fault.code : Fault → Nat
  | .unknownOpcode _ _ => 1
  | .stackOverflow _ => 2
  | .stackUnderflow _ => 3
  | .pcOutOfRange _ => 4
  | .programTooLarge _ => 5

/-- Reasons the model gives an instruction no meaning. -/
inductive Refusal where
  /-- Raised by an arm of `exec` whose instruction has no meaning yet; safe. No arm raises it. -/
  | notModelled (mnemonic : String)
deriving DecidableEq, Repr

/-- What a CYCLE or LOAD returns to its caller (R8, R36). -/
inductive Result where
  /-- the instruction executed, or the program was loaded -/
  | ok
  /-- the key-wait instruction found no key (R163, R190) -/
  | waiting
  /-- the transition faulted and changed nothing (R176) -/
  | fault (f : Fault)
  /-- the model's own, for an instruction without a meaning; never produced -/
  | refused (r : Refusal)
deriving DecidableEq, Repr

end Sys2Proof.Machine
end

