-- ==== Sys2Proof/Machine/Ops.lean ====
section
/-! DEFINITION. The named operations over memory, registers, stack, display, keypad and timers, and
raising a fault. Every read and write of State by an instruction goes through one of these. -/

namespace Sys2Proof.Machine

/-! ## Memory (spec 20_memory.md) -/

/-- What an address reads as when nothing is listed for it: the default font below 0x050, the default
MEM_INIT above (R37; log 4, log 5). It is how a memory is written down and limits none: a memory that
holds other bytes, another FONT or MEM_INIT among them, lists them. -/
def Memory.unlisted (a : Nat) : Byte := (Config.defaultFontBytes[a]?).getD Config.defaultMemInitByte

/-- The byte a list of cells holds at a key. -/
def Memory.byteAt : Memory → Nat → Byte
  | [], a => Memory.unlisted a
  | (b, w) :: m, a => if b = a then w else Memory.byteAt m a

/-- The cells after one byte is set, in canonical form again: a byte equal to what the address reads
as unlisted is not kept. -/
def Memory.put : Memory → Nat → Byte → Memory
  | [], a, v => if v = Memory.unlisted a then [] else [(a, v)]
  | (b, w) :: m, a, v =>
    if a < b then (if v = Memory.unlisted a then (b, w) :: m else (a, v) :: (b, w) :: m)
    else if a = b then (if v = Memory.unlisted a then m else (a, v) :: m)
    else (b, w) :: Memory.put m a v

/-- `MemRead(a, 1)` (R52): every 12-bit address is readable. -/
def Memory.read (m : Memory) (a : Addr) : Byte := m.byteAt a.toNat

/-- `MemWrite(a, 1, v)` (R52): every 12-bit address is writable, the font and the program included
(R58; log 10). -/
def Memory.write (m : Memory) (a : Addr) (v : Byte) : Memory := m.put a.toNat v

/-- The canonical form: addresses strictly rising and below 4096, no entry equal to what an unlisted
address reads as. -/
abbrev Memory.wf (m : Memory) : Prop :=
  m.Pairwise (fun p q => p.1 < q.1) ∧ ∀ c ∈ m, c.1 < 4096 ∧ c.2 ≠ Memory.unlisted c.1

/-- `EA(k) = (I + k) mod 4096`, the sum formed from the full 16-bit base (R53, D2; log 8). -/
def ea (base : Word) (k : Nat) : Addr := BitVec.ofNat 12 (base.toNat + k)

/-- Store bytes at `EA(k)`, `EA(k+1)`, ... in ascending order (R55, R57). -/
def Memory.storeRun (m : Memory) (base : Word) : Nat → List Byte → Memory
  | _, [] => m
  | k, b :: bs => Memory.storeRun (m.write (ea base k) b) base (k + 1) bs

/-! ## General registers (R21) -/

/-- `V[x]` -/
def State.reg (s : State) (x : Reg) : Byte := s.V[x.val]

/-- `V[x] <- v` -/
def State.setReg (s : State) (x : Reg) (v : Byte) : State := { s with V := s.V.set x.val v }

/-- The flag as the byte VF holds, 0 or 1 (R22). -/
def flagByte (b : Bool) : Byte := if b then 1 else 0

/-- Write a result to `V[x]`, then the flag to VF, last (R22, R120; D14, log 15). -/
def State.setRegThenFlag (s : State) (x : Reg) (v : Byte) (flag : Bool) : State :=
  (s.setReg x v).setReg .vF (flagByte flag)

/-! ## I, pc, timers, draw flag -/

/-- `I <- v`, all 16 bits stored (R23, D25; log 23). -/
def State.setI (s : State) (v : Word) : State := { s with I := v }

/-- `pc <- target`; a target is not checked when it is written and needs no alignment (R100, R56). -/
def State.setPc (s : State) (target : Word) : State := { s with pc := target }

/-- `pc <- pc + 2`, the advance of every instruction without a stated one (R25). -/
def State.advance (s : State) : State := s.setPc (s.pc + 2)

/-- `pc <- pc + (cond ? 4 : 2)` (R25): a skip passes two bytes it does not look at. -/
def State.skipIf (s : State) (cond : Bool) : State := s.setPc (s.pc + if cond then 4 else 2)

/-- `DT <- v` (R27) -/
def State.setDT (s : State) (v : Byte) : State := { s with delayTimer := v }

/-- `ST <- v` (R28) -/
def State.setST (s : State) (v : Byte) : State := { s with soundTimer := v }

/-- `draw_flag <- b` (R31) -/
def State.setDrawFlag (s : State) (b : Bool) : State := { s with drawFlag := b }

/-- The memory replaced. -/
def State.setMemory (s : State) (m : Memory) : State := { s with memory := m }

/-- The display replaced. -/
def State.setDisplay (s : State) (d : Display) : State := { s with display := d }

/-! ## Return stack (R26) -/

/-- `stack[sp] <- v`, then `sp <- sp + 1`, for a stack that is not full (R26, R103). -/
def State.push (s : State) (v : Word) (h : s.sp.val < 16) : State :=
  { s with stack := s.stack.set s.sp.val v h, sp := ⟨s.sp.val + 1, by omega⟩ }

/-- `sp <- sp - 1`: the slot keeps its value (R26, R101). -/
def State.pop (s : State) : State := { s with sp := ⟨s.sp.val - 1, by omega⟩ }

/-- The most recent valid entry of a stack that is not empty, `stack[sp - 1]` (R26). -/
def State.top (s : State) : Word := s.stack[s.sp.val - 1]'(by omega)

/-! ## Keypad (R30) -/

/-- `keypad[k]` -/
def State.keyDown (s : State) (k : Key) : Bool := s.keypad[k.val]

/-- `keypad[k] <- b` -/
def State.setKey (s : State) (k : Key) (b : Bool) : State := { s with keypad := s.keypad.set k.val b }

/-- The least k whose latch is set, if any (R163, D6; log 12). -/
def State.lowestKey (s : State) : Option Key := (List.finRange 16).find? (fun k => s.keyDown k)

/-! ## Display (R29) -/

/-- `display[r][c]` -/
def Display.pixel (d : Display) (r : Fin 32) (c : Fin 64) : Bool := d[r.val][c.val]

/-- `display[r][c] <- display[r][c] ^ 1` -/
def Display.toggle (d : Display) (r : Fin 32) (c : Fin 64) : Display :=
  d.set r.val (d[r.val].set c.val (!d.pixel r c))

/-- Every pixel unlit (R151). -/
def Display.blank : Display := Vector.replicate 32 (Vector.replicate 64 false)

/-! ## The random byte (R133) -/

/-- The random byte of this CYCLE: a free value (log 2). -/
def State.rndByte (s : State) : Byte := Config.rnd s.rndCount

/-- The next draw is a fresh free value (log 2). -/
def State.drawn (s : State) : State := { s with rndCount := s.rndCount + 1 }

/-! ## Faults (spec 60_exceptions.md R176) -/

/-- `raise`: taking a fault, for every kind. It transfers no control inside the machine and saves
nothing: the transition ends with the fault as its result and every element keeps the value it had
before. There is no return from it (R177). -/
def raise (f : Fault) : Host.Outcome State Fault Refusal := .fault f

/-! ## Fetch (R54) -/

/-- The opcode at pc, big-endian, for any parity of pc (R56; log 19); none when pc > 0xFFE, where
nothing is read (R54, R174, D3; log 9). -/
def State.fetch (s : State) : Option Word :=
  if s.pc > Config.lastFetch then none
  else some (wordOfBytes (s.memory.read (s.pc.setWidth 12)) (s.memory.read ((s.pc + 1).setWidth 12)))

/-- Place a word where the next CYCLE fetches it: its two bytes at pc and pc + 1, high byte first
(R54). -/
def State.storeAtPc (s : State) (op : Word) : State :=
  s.setMemory (s.memory.storeRun s.pc 0 [highByte op, lowByte op])

/-- A pc from which a fetch is possible: pc itself when it is, else the program base (log 3). -/
def State.withFetchablePc (s : State) : State :=
  if s.pc > Config.lastFetch then s.setPc Config.progBase else s

/-! ## The schedule (R7; log 1) -/

/-- The next transition of the schedule is a CYCLE: one is put first when another stands there. -/
def State.cycleNext (s : State) : State :=
  match s.schedule with
  | [] => s
  | .cycle :: _ => s
  | _ => { s with schedule := .cycle :: s.schedule }

/-- The transition to perform next: the first of the schedule, a CYCLE when the schedule is empty. -/
def State.nextTransition (s : State) : Transition := s.schedule.headD .cycle

/-- The schedule without its first transition. -/
def State.scheduled (s : State) : State := { s with schedule := s.schedule.tail }

end Sys2Proof.Machine
end

