-- ==== Sys2Proof/Machine/Operands.lean ====
section
/-! DEFINITION. The operand forms and computed operands of the instructions: immediates (R73), the
I-based runs (R53, R55), digits (R144), key selection (R161), sprite coordinates and the blit (R150,
R152). -/

namespace Sys2Proof.Machine

/-- An address immediate as a 16-bit value, `zext_16(nnn)` (R73). -/
def zextAddr (nnn : Addr) : Word := nnn.setWidth 16

/-- A register's byte as a 16-bit value, `zext_16(V[x])` (R108, R142, R143). -/
def zextByte (b : Byte) : Word := b.setWidth 16

/-- The key a register's byte selects: its low four bits (R161, R162, D5; log 11). -/
def keyOf (b : Byte) : Key := Fin.ofNat 16 b.toNat

/-- The address of the glyph of a value, `5 * zext_16(V[x])`, the value not masked (R143, D15; log 16). -/
def glyphAddr (b : Byte) : Word := 5 * zextByte b

/-- Hundreds, tens and units of a byte, each a binary number in a whole byte (R144). -/
def bcdDigits (a : Byte) : List Byte := [a / 100, (a / 10) % 10, a % 10]

/-- The bytes of V0 to Vx, register 0 first (R145, R55). -/
def State.regRun (s : State) (x : Reg) : List Byte :=
  (List.range (x.val + 1)).map (fun k => s.reg (Fin.ofNat 16 k))

/-- Load V0 to Vx from `EA(0)` to `EA(x)`, in ascending order (R146, R57). -/
def State.loadRun (s : State) (x : Reg) : State :=
  (List.range (x.val + 1)).foldl
    (fun t k => t.setReg (Fin.ofNat 16 k) (s.memory.read (ea s.I k))) s

/-! ## The sprite (R150, R152) -/

/-- Sprite column c of a row: bit `7 - c`, bit 7 leftmost (R150, D18; log 18). -/
def spriteBit (b : Byte) (c : Nat) : Bool := b.getLsbD (7 - c)

/-- The display and whether a lit pixel has been turned off so far. -/
structure Blit where
  display : Display
  hit : Bool
deriving DecidableEq, Repr

/-- The inner step of R152: sprite column c of row byte `b`, whose display row is `row` and whose left
edge is column `x0`. A 0 bit leaves the pixel alone; columns wrap modulo 64. -/
def blitPixel (row : Fin 32) (x0 : Nat) (b : Byte) (s : Blit) (c : Nat) : Blit :=
  if spriteBit b c then
    { display := s.display.toggle row (Fin.ofNat 64 (x0 + c))
      hit := s.hit || s.display.pixel row (Fin.ofNat 64 (x0 + c)) }
  else s

/-- The outer step of R152: sprite row r, eight pixels, rows wrap modulo 32. -/
def blitRow (m : Memory) (base : Word) (x0 y0 : Nat) (s : Blit) (r : Nat) : Blit :=
  (List.range 8).foldl (blitPixel (Fin.ofNat 32 (y0 + r)) x0 (m.read (ea base r))) s

/-- XOR-blit an n-row sprite from `EA(0)..EA(n-1)` at column x0, row y0, and detect a collision
(R152). -/
def blit (m : Memory) (base : Word) (x0 y0 n : Nat) (d : Display) : Blit :=
  (List.range n).foldl (blitRow m base x0 y0) ⟨d, false⟩

end Sys2Proof.Machine
end

