-- ==== Sys2Proof/Machine/ControlFlow.lean ====
section
/-! DEFINITION. Control-flow instructions (spec 40_control_flow.md, R100 to R108). `s.pc` is the address
of the instruction being executed (R24). -/

namespace Sys2Proof.Machine

/-- `00EE` RET: `if sp = 0: raise StackUnderflow(pc)`; `sp <- sp - 1`; `pc <- stack[sp]` (R101). -/
def execRet (s : State) : Host.Outcome State Fault Refusal :=
  if s.sp = 0 then raise (.stackUnderflow s.pc) else .next (s.pop.setPc s.top)

/-- `1nnn` JP: `pc <- zext_16(nnn)` (R102). -/
def execJp (nnn : Addr) (s : State) : Host.Outcome State Fault Refusal :=
  .next (s.setPc (zextAddr nnn))

/-- `2nnn` CALL: `if sp = 16: raise StackOverflow(pc)`; push `pc + 2`; `pc <- zext_16(nnn)` (R103). -/
def execCall (nnn : Addr) (s : State) : Host.Outcome State Fault Refusal :=
  if h : s.sp.val < 16 then .next ((s.push (s.pc + 2) h).setPc (zextAddr nnn))
  else raise (.stackOverflow s.pc)

/-- `3xkk` SE: skip when `V[x] = kk` (R104). -/
def execSe (x : Reg) (kk : Byte) (s : State) : Host.Outcome State Fault Refusal :=
  .next (s.skipIf (s.reg x == kk))

/-- `4xkk` SNE: skip when `V[x] != kk` (R105). -/
def execSne (x : Reg) (kk : Byte) (s : State) : Host.Outcome State Fault Refusal :=
  .next (s.skipIf (s.reg x != kk))

/-- `5xy0` SE: skip when `V[x] = V[y]` (R106). -/
def execSeReg (x y : Reg) (s : State) : Host.Outcome State Fault Refusal :=
  .next (s.skipIf (s.reg x == s.reg y))

/-- `9xy0` SNE: skip when `V[x] != V[y]` (R107). -/
def execSneReg (x y : Reg) (s : State) : Host.Outcome State Fault Refusal :=
  .next (s.skipIf (s.reg x != s.reg y))

/-- `Bnnn` JP V0: `pc <- zext_16(nnn) + zext_16(V[0])`, not reduced to 12 bits (R108, D21; log 9). -/
def execJpV0 (nnn : Addr) (s : State) : Host.Outcome State Fault Refusal :=
  .next (s.setPc (zextAddr nnn + zextByte (s.reg .v0)))

end Sys2Proof.Machine
end

