-- ==== Sys2Proof/Machine/Display.lean ====
section
/-! DEFINITION. Display instructions (spec 43_display.md, R150 to R153). Both set draw_flag on every
execution (R31, D9; log 14). -/

namespace Sys2Proof.Machine

/-- `00E0` CLS: every pixel 0, `draw_flag <- 1` (R151). -/
def execCls (s : State) : Host.Outcome State Fault Refusal :=
  .next ((s.setDisplay Display.blank).setDrawFlag true).advance

/-- `Dxyn` DRW: blit at (V[x] mod 64, V[y] mod 32), VF the collision, written last, `draw_flag <- 1`
(R152); n = 0 draws no row (corner case 3). -/
def execDrw (x y : Reg) (n : Nibble) (s : State) : Host.Outcome State Fault Refusal :=
  let b := blit s.memory s.I ((s.reg x).toNat % 64) ((s.reg y).toNat % 32) n.toNat s.display
  .next (((s.setDisplay b.display).setReg .vF (flagByte b.hit)).setDrawFlag true).advance

end Sys2Proof.Machine
end

