-- ==== Sys2Proof/Machine/IndexMemory.lean ====
section
/-! DEFINITION. Index-register and memory instructions (spec 42_index_memory.md, R140 to R146). The
three that access memory leave I as it was (R140). -/

namespace Sys2Proof.Machine

/-- `Annn` LD I: `I <- zext_16(nnn)` (R141). -/
def execLdI (nnn : Addr) (s : State) : Host.Outcome State Fault Refusal :=
  .next (s.setI (zextAddr nnn)).advance

/-- `Fx1E` ADD I: `I <- (I + zext_16(V[x])) mod 65536`, VF not written (R142). -/
def execAddIVx (x : Reg) (s : State) : Host.Outcome State Fault Refusal :=
  .next (s.setI (s.I + zextByte (s.reg x))).advance

/-- `Fx29` LD F: `I <- 5 * zext_16(V[x])` (R143). -/
def execLdFVx (x : Reg) (s : State) : Host.Outcome State Fault Refusal :=
  .next (s.setI (glyphAddr (s.reg x))).advance

/-- `Fx33` LD B: the digits of V[x] to `EA(0)`, `EA(1)`, `EA(2)` (R144). -/
def execLdBVx (x : Reg) (s : State) : Host.Outcome State Fault Refusal :=
  .next (s.setMemory (s.memory.storeRun s.I 0 (bcdDigits (s.reg x)))).advance

/-- `Fx55` LD [I]: V0 to Vx to `EA(0)` to `EA(x)` (R145). -/
def execLdMemVx (x : Reg) (s : State) : Host.Outcome State Fault Refusal :=
  .next (s.setMemory (s.memory.storeRun s.I 0 (s.regRun x))).advance

/-- `Fx65` LD Vx, [I]: `EA(0)` to `EA(x)` to V0 to Vx (R146). -/
def execLdVxMem (x : Reg) (s : State) : Host.Outcome State Fault Refusal :=
  .next (s.loadRun x).advance

end Sys2Proof.Machine
end

