-- ==== Sys2Proof/Machine/KeypadTimers.lean ====
section
/-! DEFINITION. Keypad and timer instructions (spec 44_keypad_timers.md, R160 to R166). -/

namespace Sys2Proof.Machine

/-- `Ex9E` SKP: skip when the selected key is down (R161). -/
def execSkp (x : Reg) (s : State) : Host.Outcome State Fault Refusal :=
  .next (s.skipIf (s.keyDown (keyOf (s.reg x))))

/-- `ExA1` SKNP: skip when the selected key is not down (R162). -/
def execSknp (x : Reg) (s : State) : Host.Outcome State Fault Refusal :=
  .next (s.skipIf (!s.keyDown (keyOf (s.reg x))))

/-- `Fx0A` LD Vx, K: with no latch set nothing is written and pc stays (the result is `waiting`);
else V[x] gets the least set key (R163, D6; log 12). -/
def execLdVxK (x : Reg) (s : State) : Host.Outcome State Fault Refusal :=
  match s.lowestKey with
  | none => .next s
  | some k => .next (s.setReg x (BitVec.ofNat 8 k.val)).advance

/-- `Fx07` LD Vx, DT: `V[x] <- DT` (R164). -/
def execLdVxDT (x : Reg) (s : State) : Host.Outcome State Fault Refusal :=
  .next (s.setReg x s.delayTimer).advance

/-- `Fx15` LD DT, Vx: `DT <- V[x]` (R165). -/
def execLdDTVx (x : Reg) (s : State) : Host.Outcome State Fault Refusal :=
  .next (s.setDT (s.reg x)).advance

/-- `Fx18` LD ST, Vx: `ST <- V[x]` (R166). -/
def execLdSTVx (x : Reg) (s : State) : Host.Outcome State Fault Refusal :=
  .next (s.setST (s.reg x)).advance

end Sys2Proof.Machine
end

