-- ==== Sys2Proof/Machine/Flags.lean ====
section
/-! DEFINITION. The flag computations (spec 10_state.md R22, 41_register_ops.md R132): each takes the
operands as they were before the instruction. -/

namespace Sys2Proof.Machine

/-- Carry out of bit 7 of `a + b`: the 9-bit sum exceeds 255 (R127). -/
def carryOut (a b : Byte) : Bool := a.toNat + b.toNat > 255

/-- No borrow in `a - b`: a >= b, equality included (R128, R130). -/
def notBorrow (a b : Byte) : Bool := a.toNat ≥ b.toNat

/-- The bit a right shift by one loses: bit 0 (R129). -/
def shiftedOutRight (a : Byte) : Bool := a.getLsbD 0

/-- The bit a left shift by one loses: bit 7 (R131). -/
def shiftedOutLeft (a : Byte) : Bool := a.getLsbD 7

end Sys2Proof.Machine
end

