-- ==== Sys2Proof/Machine/RegisterOps.lean ====
section
/-! DEFINITION. Register load, arithmetic, logic, shift and random instructions (spec
41_register_ops.md, R120 to R133). Operands are read from the state before the instruction; VF is
written last (R22, R120). -/

namespace Sys2Proof.Machine

/-- `6xkk` LD: `V[x] <- kk` (R121). -/
def execLd (x : Reg) (kk : Byte) (s : State) : Host.Outcome State Fault Refusal :=
  .next (s.setReg x kk).advance

/-- `7xkk` ADD: `V[x] <- (V[x] + kk) mod 256`, VF not written (R122). -/
def execAdd (x : Reg) (kk : Byte) (s : State) : Host.Outcome State Fault Refusal :=
  .next (s.setReg x (s.reg x + kk)).advance

/-- `8xy0` LD: `V[x] <- V[y]` (R123). -/
def execLdReg (x y : Reg) (s : State) : Host.Outcome State Fault Refusal :=
  .next (s.setReg x (s.reg y)).advance

/-- `8xy1` OR, VF not written (R124). -/
def execOr (x y : Reg) (s : State) : Host.Outcome State Fault Refusal :=
  .next (s.setReg x (s.reg x ||| s.reg y)).advance

/-- `8xy2` AND, VF not written (R125). -/
def execAnd (x y : Reg) (s : State) : Host.Outcome State Fault Refusal :=
  .next (s.setReg x (s.reg x &&& s.reg y)).advance

/-- `8xy3` XOR, VF not written (R126). -/
def execXor (x y : Reg) (s : State) : Host.Outcome State Fault Refusal :=
  .next (s.setReg x (s.reg x ^^^ s.reg y)).advance

/-- `8xy4` ADD: the sum mod 256, VF the carry (R127). -/
def execAddReg (x y : Reg) (s : State) : Host.Outcome State Fault Refusal :=
  .next (s.setRegThenFlag x (s.reg x + s.reg y) (carryOut (s.reg x) (s.reg y))).advance

/-- `8xy5` SUB: `V[x] - V[y]` mod 256, VF = 1 when no borrow (R128). -/
def execSub (x y : Reg) (s : State) : Host.Outcome State Fault Refusal :=
  .next (s.setRegThenFlag x (s.reg x - s.reg y) (notBorrow (s.reg x) (s.reg y))).advance

/-- `8xy6` SHR: V[x] shifted right by one, VF the bit shifted out; V[y] is not read (R129, R78). -/
def execShr (x _y : Reg) (s : State) : Host.Outcome State Fault Refusal :=
  .next (s.setRegThenFlag x (s.reg x >>> 1) (shiftedOutRight (s.reg x))).advance

/-- `8xy7` SUBN: `V[y] - V[x]` mod 256 into V[x], VF = 1 when no borrow (R130). -/
def execSubn (x y : Reg) (s : State) : Host.Outcome State Fault Refusal :=
  .next (s.setRegThenFlag x (s.reg y - s.reg x) (notBorrow (s.reg y) (s.reg x))).advance

/-- `8xyE` SHL: V[x] shifted left by one, VF the bit shifted out; V[y] is not read (R131, R78). -/
def execShl (x _y : Reg) (s : State) : Host.Outcome State Fault Refusal :=
  .next (s.setRegThenFlag x (s.reg x <<< 1) (shiftedOutLeft (s.reg x))).advance

/-- `Cxkk` RND: `V[x] <- rnd & kk`, rnd a free value (R133; log 2). -/
def execRnd (x : Reg) (kk : Byte) (s : State) : Host.Outcome State Fault Refusal :=
  .next (s.drawn.setReg x (s.rndByte &&& kk)).advance

end Sys2Proof.Machine
end

