-- ==== Sys2Proof/Machine/Transitions.lean ====
section
/-! DEFINITION. The six atomic transitions of the machine (spec 00_scope.md R6): CYCLE, and those of the
external agents, RESET, LOAD, TICK, KEY and DRAW_ACK. None touches the parameter `font` or the
model's own fields `rndCount` and `schedule`, but that an executed RND draws a random byte. -/

namespace Sys2Proof.Machine

/-- CYCLE (R74): `PcOutOfRange` before the fetch, `UnknownOpcode` at decode, else the instruction, in
that order (R178). -/
def cycle (s : State) : Host.Outcome State Fault Refusal :=
  match s.fetch with
  | none => raise (.pcOutOfRange s.pc)
  | some op =>
    match decodeWord op with
    | none => raise (.unknownOpcode op s.pc)
    | some i => exec i s

/-- RESET (R200): every element at the value of R37; of memory only 0x000 to 0x04F are written, with
the parameter FONT (R66), and the rest keeps its content (D10; log 4). -/
def resetMachine (s : State) : State :=
  { State.reset with
    memory := s.memory.storeRun 0 0 s.font.toList
    font := s.font
    rndCount := s.rndCount
    schedule := s.schedule }

/-- The machine right after power-on and its first RESET, for any FONT and MEM_INIT, the two arguments
of the model (R9, R202): 0x050 to 0xFFF hold MEM_INIT, and RESET gives every other element its value,
0x000 to 0x04F among them. -/
def State.powerOn (font : Vector Byte 80) (memInit : Vector Byte 4016) : State :=
  resetMachine { State.reset with
    font := font
    memory := Memory.storeRun [] 0x050 0 memInit.toList }

/-- LOAD (R203): a program of at most 3584 bytes is copied from 0x200 up and nothing else changes; a
longer one is a fault and nothing is copied (R175). Defined in every state (R204, D16; log 17). -/
def loadProgram (bytes : List Byte) (s : State) : Host.Outcome State Fault Refusal :=
  if bytes.length > Config.progMax then raise (.programTooLarge bytes.length)
  else .next (s.setMemory (s.memory.storeRun Config.progBase 0 bytes))

/-- A timer counted down by one, floored at 0 (R181). -/
def countDown (t : Byte) : Byte := if t = 0 then 0 else t - 1

/-- TICK (R181): both timers, each on its own. -/
def tickTimers (s : State) : State := (s.setDT (countDown s.delayTimer)).setST (countDown s.soundTimer)

/-- DRAW_ACK (R185). -/
def drawAck (s : State) : State := s.setDrawFlag false

/-- One transition of R6. -/
def perform (t : Transition) (s : State) : Host.Outcome State Fault Refusal :=
  match t with
  | .reset => .next (resetMachine s)
  | .load bytes => loadProgram bytes s
  | .cycle => cycle s
  | .tick => .next (tickTimers s)
  | .key k b => .next (s.setKey k b)
  | .drawAck => .next (drawAck s)

/-- The CYCLE from this state finds the key-wait instruction at pc and no key set: its result is
`waiting` (R163, R190). -/
def State.waiting (s : State) : Bool :=
  match s.fetch.bind decodeWord with
  | some (.ldVxK _) => s.lowestKey.isNone
  | _ => false

/-- What a transition returns: CYCLE and LOAD report to their caller (R8, R36); the others return
nothing (R181, R184, R185, R200). -/
def resultOf (t : Transition) (s : State) : Option Result :=
  match t, perform t s with
  | .cycle, .next _ => some (if s.waiting then .waiting else .ok)
  | .load _, .next _ => some .ok
  | _, .next _ => none
  | _, .fault f => some (.fault f)
  | _, .refused r => some (.refused r)

/-- The state after a transition: a transition that faults leaves every element as it was (R176). -/
def after (t : Transition) (s : State) : State :=
  match perform t s with
  | .next s' => s'
  | .fault _ => s
  | .refused _ => s

/-- The state after a sequence of transitions, faulting ones included: any interleaving of the agents
is such a sequence (R6, R7). -/
def afterAll (ts : List Transition) (s : State) : State := ts.foldl (fun u t => after t u) s

/-! ## Ports (R36) -/

/-- `display_out`, row-major: the pixel of row r, column c is at index `r * 64 + c` (R29). -/
def State.displayOut (s : State) : Vector Bool (32 * 64) := s.display.flatten

/-- `draw_flag_out` -/
def State.drawFlagOut (s : State) : Bool := s.drawFlag

/-- `sound_on = (ST > 0)` (R183). -/
def State.soundOn (s : State) : Bool := s.soundTimer > 0

end Sys2Proof.Machine
end

