-- ==== Sys2Proof/Machine/Step.lean ====
section
/-! DEFINITION. One step: the next transition of the schedule, a CYCLE when the schedule is empty
(spec 00_scope.md R6, R7; log 1). -/

namespace Sys2Proof.Machine

def step (s : State) : Host.Outcome State Fault Refusal := perform s.nextTransition s.scheduled

/-- The state in which the very next step fetches and runs the word `w`: a CYCLE is next, pc is one a
fetch is possible from, and the word's bytes lie at pc and pc + 1 (log 3). -/
def State.withFetchWord (s : State) (nbits w : Nat) : State :=
  s.cycleNext.withFetchablePc.storeAtPc (BitVec.ofNat 16 (w % 2 ^ nbits))

end Sys2Proof.Machine
end

