-- ==== Sys2Proof/Safety.lean ====
section
/-! DEFINITION. The terms claims are stated in: what a transition leaves unchanged, the invariant of
R38, the end of a run (R211), and the duties of programs (R205) and of the host (R204, R210), which
the machine does not check. -/

namespace Sys2Proof.Machine

/-! ## Frames -/

/-- The fields of State: R20's eleven elements, the parameter FONT, then the model's own two. -/
inductive Element where
  | V | I | pc | stack | sp | delayTimer | soundTimer | display | keypad | drawFlag | memory
  | font | rndCount | schedule
deriving DecidableEq, Repr

/-- An element reads the same in both states: memory byte by byte, through the model's read. -/
def Kept (s t : State) : Element → Prop
  | .V => ∀ r, t.reg r = s.reg r
  | .I => t.I = s.I
  | .pc => t.pc = s.pc
  | .stack => t.stack = s.stack
  | .sp => t.sp = s.sp
  | .delayTimer => t.delayTimer = s.delayTimer
  | .soundTimer => t.soundTimer = s.soundTimer
  | .display => t.display = s.display
  | .keypad => t.keypad = s.keypad
  | .drawFlag => t.drawFlag = s.drawFlag
  | .memory => ∀ a, t.memory.read a = s.memory.read a
  | .font => t.font = s.font
  | .rndCount => t.rndCount = s.rndCount
  | .schedule => t.schedule = s.schedule

/-- Every element but those listed reads the same. -/
def KeepsAllBut (changed : List Element) (s t : State) : Prop := ∀ e, e ∉ changed → Kept s t e

/-- What an instruction may write besides pc: the "written by" column of R35, by instruction. -/
def mayWrite : Instr → List Element
  | .cls => [.display, .drawFlag]
  | .ret => [.sp]
  | .jp _ => []
  | .call _ => [.stack, .sp]
  | .se _ _ => []
  | .sne _ _ => []
  | .seReg _ _ => []
  | .ld _ _ => [.V]
  | .add _ _ => [.V]
  | .ldReg _ _ => [.V]
  | .or _ _ => [.V]
  | .and _ _ => [.V]
  | .xor _ _ => [.V]
  | .addReg _ _ => [.V]
  | .sub _ _ => [.V]
  | .shr _ _ => [.V]
  | .subn _ _ => [.V]
  | .shl _ _ => [.V]
  | .sneReg _ _ => []
  | .ldI _ => [.I]
  | .jpV0 _ => []
  | .rnd _ _ => [.V, .rndCount]
  | .drw _ _ _ => [.V, .display, .drawFlag]
  | .skp _ => []
  | .sknp _ => []
  | .ldVxDT _ => [.V]
  | .ldVxK _ => [.V]
  | .ldDTVx _ => [.delayTimer]
  | .ldSTVx _ => [.soundTimer]
  | .addIVx _ => [.I]
  | .ldFVx _ => [.I]
  | .ldBVx _ => [.memory]
  | .ldMemVx _ => [.memory]
  | .ldVxMem _ => [.V]

/-- The general registers an instruction may write: the destination its encoding names, V0 to Vx for
`Fx65`, and VF for the six instructions with a flag effect (R21, R22). -/
def mayWriteReg (i : Instr) (r : Reg) : Bool :=
  match i with
  | .ld x _ | .add x _ | .rnd x _ => r == x
  | .ldReg x _ | .or x _ | .and x _ | .xor x _ => r == x
  | .addReg x _ | .sub x _ | .shr x _ | .subn x _ | .shl x _ => r == x || r == .vF
  | .drw _ _ _ => r == .vF
  | .ldVxDT x | .ldVxK x => r == x
  | .ldVxMem x => r ≤ x
  | .cls | .ret | .jp _ | .call _ | .se _ _ | .sne _ _ | .seReg _ _ | .sneReg _ _ | .ldI _ | .jpV0 _ => false
  | .skp _ | .sknp _ | .ldDTVx _ | .ldSTVx _ | .addIVx _ | .ldFVx _ | .ldBVx _ | .ldMemVx _ => false

/-- The six instructions that define a flag effect (R22). -/
def writesFlag : Instr → Bool
  | .addReg _ _ | .sub _ _ | .shr _ _ | .subn _ _ | .shl _ _ | .drw _ _ _ => true
  | .cls | .ret | .jp _ | .call _ | .se _ _ | .sne _ _ | .seReg _ _ | .sneReg _ _ | .ldI _ | .jpV0 _ => false
  | .ld _ _ | .add _ _ | .rnd _ _ | .ldReg _ _ | .or _ _ | .and _ _ | .xor _ _ => false
  | .skp _ | .sknp _ | .ldVxDT _ | .ldVxK _ | .ldDTVx _ | .ldSTVx _ => false
  | .addIVx _ | .ldFVx _ | .ldBVx _ | .ldMemVx _ | .ldVxMem _ => false

/-- The three instructions that reach the timers (R160). -/
def usesTimers : Instr → Bool
  | .ldVxDT _ | .ldDTVx _ | .ldSTVx _ => true
  | .cls | .ret | .jp _ | .call _ | .se _ _ | .sne _ _ | .seReg _ _ | .sneReg _ _ | .ldI _ | .jpV0 _ => false
  | .ld _ _ | .add _ _ | .rnd _ _ | .ldReg _ _ | .or _ _ | .and _ _ | .xor _ _ => false
  | .addReg _ _ | .sub _ _ | .shr _ _ | .subn _ _ | .shl _ _ | .drw _ _ _ => false
  | .skp _ | .sknp _ | .ldVxK _ | .addIVx _ | .ldFVx _ | .ldBVx _ | .ldMemVx _ | .ldVxMem _ => false

/-- The three instructions that read the keypad latches (R30, R160). -/
def usesKeypad : Instr → Bool
  | .skp _ | .sknp _ | .ldVxK _ => true
  | .cls | .ret | .jp _ | .call _ | .se _ _ | .sne _ _ | .seReg _ _ | .sneReg _ _ | .ldI _ | .jpV0 _ => false
  | .ld _ _ | .add _ _ | .rnd _ _ | .ldReg _ _ | .or _ _ | .and _ _ | .xor _ _ => false
  | .addReg _ _ | .sub _ _ | .shr _ _ | .subn _ _ | .shl _ _ | .drw _ _ _ => false
  | .ldVxDT _ | .ldDTVx _ | .ldSTVx _ | .addIVx _ | .ldFVx _ | .ldBVx _ | .ldMemVx _ | .ldVxMem _ => false

/-- A function applied to the next state of an outcome. -/
def mapNext (f : State → State) : Host.Outcome State Fault Refusal → Host.Outcome State Fault Refusal
  | .next s => .next (f s)
  | .fault r => .fault r
  | .refused r => .refused r

/-! ## The invariant (R38) -/

/-- What holds in every reachable state: memory in canonical form, pc at most 0x10FE, every valid
stack entry in 0x0002 to 0x1000. The other clauses of R38 hold by the types of the fields. -/
def ReachableInv (s : State) : Prop :=
  s.memory.wf ∧ s.pc ≤ 0x10FE ∧
    ∀ i : Fin 16, i.val < s.sp.val → 0x0002 ≤ s.stack[i.val] ∧ s.stack[i.val] ≤ 0x1000

/-! ## Pixels of a sprite (R150, R152) -/

/-- A 1 bit of the n-row sprite at I, placed at column V[x] mod 64 and row V[y] mod 32, falls on the
display's row r, column c: both coordinates are reduced again, modulo 32 and 64. -/
def SpriteCovers (s : State) (x y : Reg) (n : Nibble) (r : Fin 32) (c : Fin 64) : Prop :=
  ∃ i < n.toNat, ∃ j < 8,
    r.val = ((s.reg y).toNat % 32 + i) % 32 ∧ c.val = ((s.reg x).toNat % 64 + j) % 64 ∧
      (s.memory.read (ea s.I i)).getLsbD (7 - j) = true

/-! ## Runs -/

/-- Instructions executed one after another, stopping at the first fault or refusal. -/
def execAll : List Instr → State → Host.Outcome State Fault Refusal
  | [], s => .next s
  | i :: is, s =>
    match exec i s with
    | .next s' => execAll is s'
    | .fault f => .fault f
    | .refused r => .refused r

/-- The instruction at pc, when one can be fetched and decoded. -/
def State.current (s : State) : Option Instr := s.fetch.bind decodeWord

/-- The program has ended: the instruction at pc is a jump to itself (R211, D20; log 20). -/
def State.hasEnded (s : State) : Bool :=
  match s.current with
  | some (.jp nnn) => zextAddr nnn == s.pc
  | _ => false

/-! ## Duties -/

/-- The duty of a program at one instruction (R205 a, d, e): stores at 0x200 and above, calls nested at
most 16 deep with a CALL for each RET, key numbers 0 to 15. -/
def instrDutyKept (i : Instr) (s : State) : Bool :=
  match i with
  | .ret => 0 < s.sp.val
  | .call _ => s.sp.val < 16
  | .skp x | .sknp x => (s.reg x).toNat ≤ 15
  | .ldBVx _ => (List.range 3).all (fun k => 0x200 ≤ (ea s.I k).toNat)
  | .ldMemVx x => (List.range (x.val + 1)).all (fun k => 0x200 ≤ (ea s.I k).toNat)
  | .cls | .jp _ | .se _ _ | .sne _ _ | .seReg _ _ | .sneReg _ _ | .ldI _ | .jpV0 _ => true
  | .ld _ _ | .add _ _ | .rnd _ _ | .ldReg _ _ | .or _ _ | .and _ _ | .xor _ _ => true
  | .addReg _ _ | .sub _ _ | .shr _ _ | .subn _ _ | .shl _ _ | .drw _ _ _ => true
  | .ldVxDT _ | .ldVxK _ | .ldDTVx _ | .ldSTVx _ | .addIVx _ | .ldFVx _ | .ldVxMem _ => true

/-- The program keeps its duties in this state (R205): I is a memory address (b), pc is within bounds
(c) and points at an instruction (f), which keeps its own duty (a, d, e). -/
def State.dutyKept (s : State) : Bool :=
  s.I ≤ 0xFFF && !(s.pc > Config.lastFetch) &&
    match s.current with
    | some i => instrDutyKept i s
    | none => false

/-- The host loads only directly after a RESET (R204, R210): `fresh` says that the transition before
was one. -/
def loadsOnlyAfterReset (fresh : Bool) : List Transition → Bool
  | [] => true
  | .reset :: ts => loadsOnlyAfterReset true ts
  | .load _ :: ts => fresh && loadsOnlyAfterReset false ts
  | .cycle :: ts => loadsOnlyAfterReset false ts
  | .tick :: ts => loadsOnlyAfterReset false ts
  | .key _ _ :: ts => loadsOnlyAfterReset false ts
  | .drawAck :: ts => loadsOnlyAfterReset false ts

end Sys2Proof.Machine
end

