-- ==== Sys2Proof/Certificates/Slice0/Obligations.lean ====
section
/-! DEFINITION. The statements for the provers. Each docstring names the rule or section of the spec it
formalises, and the log entry where it rests on a choice the spec or the model made. -/

open Sys2Proof Sys2Proof.Machine

/-! ## Encoding (spec 30_encoding.md) -/

/-- Words of 95_test_vectors.md B1, every family among them, decode as the spec says; the verdict unknown
for words one bit or nibble away, 5121 and 0000 among them, is the exact match the spec chooses (D7, D8,
log 13). -/
def Obligations.SpecWordsDecodeAsListed : Prop :=
  decodeWord 0x00E0 = some .cls ∧ decodeWord 0x00EE = some .ret ∧ decodeWord 0x0000 = none ∧
  decodeWord 0x2FFF = some (.call 0xFFF) ∧ decodeWord 0x3A12 = some (.se 0xA 0x12) ∧
  decodeWord 0x5120 = some (.seReg 1 2) ∧ decodeWord 0x5121 = none ∧
  decodeWord 0x8AB7 = some (.subn 0xA 0xB) ∧ decodeWord 0x8AB8 = none ∧ decodeWord 0xB123 = some (.jpV0 0x123) ∧
  decodeWord 0xD01F = some (.drw 0 1 15) ∧ decodeWord 0xE0A1 = some (.sknp 0) ∧ decodeWord 0xE09F = none ∧
  decodeWord 0xFA0A = some (.ldVxK 0xA) ∧ decodeWord 0xF065 = some (.ldVxMem 0) ∧ decodeWord 0xFFFF = none

/-- Decoding the two bytes of any instruction gives that instruction with every operand, and the bytes
after it untouched (R70, R82). -/
def Obligations.DecodeOfEncodeIsTheInstruction : Prop :=
  ∀ (i : Instr) (rest : List Byte), decode (encodeBytes i ++ rest) = .instr i rest

/-- Decode followed by encode is the identity on every valid word, the unread y of the shifts included
(R78, R82). -/
def Obligations.EncodeOfDecodeIsTheWord : Prop :=
  ∀ (op : Word) (i : Instr), decodeWord op = some i → encode i = op

/-- A word decodes exactly when it matches a row of R75's match and mask columns, to an instruction of
that row, and no two rows match the same word (R74, R75; exact match: D7, D8, log 13). -/
def Obligations.DecodeAgreesWithTheOpcodeTable : Prop :=
  ∀ op : Word,
    (∀ r ∈ opcodeTable, r.accepts op = true → ∃ i, decodeWord op = some i ∧ rowOf i = r) ∧
    (∀ i, decodeWord op = some i → rowOf i ∈ opcodeTable ∧ (rowOf i).accepts op = true) ∧
    (∀ r ∈ opcodeTable, ∀ r' ∈ opcodeTable, r.accepts op = true → r'.accepts op = true → r = r')

/-- The unknown words are exactly those of R76's table, by high nibble (R76, R77; D7, D8, log 13). -/
def Obligations.UnknownWordsAreExactlyThoseListed : Prop :=
  ∀ op : Word, decodeWord op = none ↔
    (op.toNat / 4096 = 0x0 ∧ op ≠ 0x00E0 ∧ op ≠ 0x00EE) ∨
    (op.toNat / 4096 = 0x5 ∧ op.toNat % 16 ≠ 0) ∨
    (op.toNat / 4096 = 0x8 ∧ 8 ≤ op.toNat % 16 ∧ op.toNat % 16 ≠ 0xE) ∨
    (op.toNat / 4096 = 0x9 ∧ op.toNat % 16 ≠ 0) ∨
    (op.toNat / 4096 = 0xE ∧ op.toNat % 256 ∉ [0x9E, 0xA1]) ∨
    (op.toNat / 4096 = 0xF ∧ op.toNat % 256 ∉ [0x07, 0x0A, 0x15, 0x18, 0x1E, 0x29, 0x33, 0x55, 0x65])

/-- The assembler gives back the instruction a line spells, rejects a line exactly when it is not well
formed, and every instruction's own line is well formed (R80; notation D23, log 22). -/
def Obligations.AssemblerGivesBackTheSpelledInstruction : Prop :=
  (∀ i : Instr, i.line.wellFormed = true ∧ i.line.assemble = some i) ∧
    ∀ l : AsmLine, l.assemble = none ↔ l.wellFormed = false

/-! ## Fetch, CYCLE and the schedule -/

/-- The fetch takes the bytes at pc and pc + 1 for any pc up to 0xFFE, odd or even, the first as the high
half of the word (R54, R56; the bound is D3, log 9; no alignment is D19, log 19). -/
def Obligations.FetchIsBigEndianAtAnyPc : Prop :=
  ∀ (s : State) (a b : Addr), a.toNat = s.pc.toNat → b.toNat = s.pc.toNat + 1 →
    ∃ op, s.fetch = some op ∧ op.toNat = (s.memory.read a).toNat * 256 + (s.memory.read b).toNat

/-- A step with a CYCLE next, at a pc whose two bytes decode to an instruction, is that instruction's
meaning on the state with the schedule advanced; with an empty schedule, on the state itself (R74; the
schedule is the model's, log 1). -/
def Obligations.StepRunsTheDecodedInstruction : Prop :=
  ∀ (s : State) (a b : Addr) (i : Instr),
    a.toNat = s.pc.toNat → b.toNat = s.pc.toNat + 1 →
    decode [s.memory.read a, s.memory.read b] = .instr i [] →
    (s.schedule = [] → step s = exec i s) ∧
    (∀ ts, s.schedule = .cycle :: ts → step s = exec i { s with schedule := ts })

/-- As many steps as the schedule is long perform its transitions in order, as the transition system of
R6 does (R7; the schedule is the model's, log 1). -/
def Obligations.RunPerformsTheScheduleInOrder : Prop :=
  ∀ (ts : List Transition) (s t : State),
    Sys2Proof.core.run ts.length { s with schedule := ts } = .next t →
    t = afterAll ts { s with schedule := [] }

/-- A CYCLE faults in exactly four ways, in the order of R178: pc out of range, unknown word, RET on an
empty stack, CALL on a full one (R170, R178; D3, D13, log 7, log 9). -/
def Obligations.CycleFaultsExactlyAsListed : Prop :=
  ∀ (s : State) (f : Fault), cycle s = .fault f ↔
    (0xFFE < s.pc.toNat ∧ f = .pcOutOfRange s.pc) ∨
    (∃ op, s.fetch = some op ∧ decodeWord op = none ∧ f = .unknownOpcode op s.pc) ∨
    (s.current = some .ret ∧ s.sp = 0 ∧ f = .stackUnderflow s.pc) ∨
    (∃ nnn, s.current = some (.call nnn) ∧ s.sp = 16 ∧ f = .stackOverflow s.pc)

/-- A faulting CYCLE changes nothing and faults the same way again, and TICK, KEY and DRAW_ACK in any
number do not cure it (R176, R177, D24, log 7). -/
def Obligations.FaultRepeatsUntilResetOrLoad : Prop :=
  ∀ (s : State) (f : Fault) (ts : List Transition), cycle s = .fault f →
    (∀ t ∈ ts, t = .cycle ∨ t = .tick ∨ t = .drawAck ∨ ∃ k b, t = .key k b) →
    after .cycle s = s ∧ cycle (afterAll ts s) = .fault f

/-- No step is refused: every instruction and every transition has a meaning. -/
def Obligations.NoStepIsRefused : Prop :=
  ∀ (s : State) (r : Refusal), step s ≠ .refused r

/-! ## Control flow (spec 40_control_flow.md) -/

/-- `00EE` RET: the depth falls by one and pc is the slot just released, which keeps its value; with an
empty stack the fault StackUnderflow is the result and the state is unchanged (R101, R173). -/
def Obligations.RetPopsIntoPc : Prop :=
  decodeWord 0x00EE = some .ret ∧
  ∀ s : State,
    (∀ i : Fin 16, s.sp.val = i.val + 1 →
      ∃ t, exec .ret s = .next t ∧ t.sp.val = i.val ∧ t.pc = s.stack[i.val] ∧ KeepsAllBut [.sp, .pc] s t) ∧
    (s.sp = 0 → exec .ret s = .fault (.stackUnderflow s.pc)) ∧
    (s.current = some .ret → s.sp = 0 →
      resultOf .cycle s = some (.fault (.stackUnderflow s.pc)) ∧ after .cycle s = s)

/-- `1nnn` JP: pc is nnn, nothing else changes (R102). -/
def Obligations.JpSetsPc : Prop :=
  ∀ (nnn : Addr) (s : State),
    decodeWord (0x1#4 ++ nnn) = some (.jp nnn) ∧
    ∃ t, exec (.jp nnn) s = .next t ∧ t.pc.toNat = nnn.toNat ∧ KeepsAllBut [.pc] s t

/-- `2nnn` CALL: slot sp gets pc + 2, the depth rises by one, pc is nnn, the other slots are kept; with
sixteen entries the fault StackOverflow is the result and the state is unchanged (R103, R172). -/
def Obligations.CallPushesReturnAddress : Prop :=
  ∀ (nnn : Addr) (s : State),
    decodeWord (0x2#4 ++ nnn) = some (.call nnn) ∧
    (s.sp.val < 16 → ∃ t, exec (.call nnn) s = .next t ∧ t.sp.val = s.sp.val + 1 ∧ t.pc.toNat = nnn.toNat ∧
      (∀ i : Fin 16, t.stack[i.val] = if i.val = s.sp.val then s.pc + 2 else s.stack[i.val]) ∧
      KeepsAllBut [.stack, .sp, .pc] s t) ∧
    (s.sp = 16 → exec (.call nnn) s = .fault (.stackOverflow s.pc)) ∧
    (s.current = some (.call nnn) → s.sp = 16 →
      resultOf .cycle s = some (.fault (.stackOverflow s.pc)) ∧ after .cycle s = s)

/-- A CALL and the RET that matches it bring pc to the instruction after the CALL and the depth back,
whatever the subroutine did to everything else (95_test_vectors.md A5; R101, R103). -/
def Obligations.RetAfterCallResumesAfterTheCall : Prop :=
  ∀ (nnn : Addr) (s : State), s.sp.val < 16 →
    ∃ t, exec (.call nnn) s = .next t ∧
      ∀ t' : State, t'.stack = t.stack → t'.sp = t.sp →
        ∃ u, exec .ret t' = .next u ∧ u.pc = s.pc + 2 ∧ u.sp = s.sp

/-- From an empty stack sixteen CALLs run and the seventeenth is the fault StackOverflow
(95_test_vectors.md A6; R103, R172). -/
def Obligations.SeventeenthNestedCallOverflows : Prop :=
  ∀ (targets : List Addr) (s : State), targets.length = 16 → s.sp = 0 →
    ∃ t, execAll (targets.map .call) s = .next t ∧ t.sp = 16 ∧
      ∀ nnn, exec (.call nnn) t = .fault (.stackOverflow t.pc)

/-- `3xkk` SE and `4xkk` SNE: pc + 4 when V[x] equals, differs from, kk, else pc + 2 (R104, R105). -/
def Obligations.SkipsComparingWithImmediate : Prop :=
  ∀ (x : Reg) (kk : Byte) (s : State),
    decodeWord (0x3#4 ++ regBits x ++ kk) = some (.se x kk) ∧
    decodeWord (0x4#4 ++ regBits x ++ kk) = some (.sne x kk) ∧
    (∃ t, exec (.se x kk) s = .next t ∧ KeepsAllBut [.pc] s t ∧
      t.pc = if (s.reg x).toNat = kk.toNat then s.pc + 4 else s.pc + 2) ∧
    (∃ t, exec (.sne x kk) s = .next t ∧ KeepsAllBut [.pc] s t ∧
      t.pc = if (s.reg x).toNat = kk.toNat then s.pc + 2 else s.pc + 4)

/-- `5xy0` SE and `9xy0` SNE: pc + 4 when V[x] equals, differs from, V[y], else pc + 2 (R106, R107;
that the low nibble must be 0 is said in UnknownWordsAreExactlyThoseListed). -/
def Obligations.SkipsComparingRegisters : Prop :=
  ∀ (x y : Reg) (s : State),
    decodeWord (0x5#4 ++ regBits x ++ regBits y ++ 0x0#4) = some (.seReg x y) ∧
    decodeWord (0x9#4 ++ regBits x ++ regBits y ++ 0x0#4) = some (.sneReg x y) ∧
    (∃ t, exec (.seReg x y) s = .next t ∧ KeepsAllBut [.pc] s t ∧
      t.pc = if (s.reg x).toNat = (s.reg y).toNat then s.pc + 4 else s.pc + 2) ∧
    (∃ t, exec (.sneReg x y) s = .next t ∧ KeepsAllBut [.pc] s t ∧
      t.pc = if (s.reg x).toNat = (s.reg y).toNat then s.pc + 2 else s.pc + 4)

/-- `Bnnn` JP V0: pc is nnn + V[0], not reduced to 12 bits (R108; unmasked by D21, log 9). -/
def Obligations.JpV0AddsV0 : Prop :=
  ∀ (nnn : Addr) (s : State),
    decodeWord (0xB#4 ++ nnn) = some (.jpV0 nnn) ∧
    ∃ t, exec (.jpV0 nnn) s = .next t ∧ t.pc.toNat = nnn.toNat + (s.reg 0).toNat ∧ KeepsAllBut [.pc] s t

/-- A CYCLE at a jump to itself changes nothing: the end of a run as R211 defines it (D20, log 20). -/
def Obligations.EndedRunStaysAsItIs : Prop :=
  ∀ s : State, s.hasEnded = true → cycle s = .next s

/-! ## Register operations (spec 41_register_ops.md) -/

/-- `6xkk` LD loads kk, `8xy0` LD copies V[y], into V[x] (R121, R123). -/
def Obligations.LdLoadsImmediateOrRegister : Prop :=
  (∀ (x : Reg) (kk : Byte) (s : State),
    decodeWord (0x6#4 ++ regBits x ++ kk) = some (.ld x kk) ∧
    ∃ t, exec (.ld x kk) s = .next t ∧ (∀ r, t.reg r = if r = x then kk else s.reg r) ∧
      t.pc = s.pc + 2 ∧ KeepsAllBut [.V, .pc] s t) ∧
  (∀ (x y : Reg) (s : State),
    decodeWord (0x8#4 ++ regBits x ++ regBits y ++ 0x0#4) = some (.ldReg x y) ∧
    ∃ t, exec (.ldReg x y) s = .next t ∧ (∀ r, t.reg r = if r = x then s.reg y else s.reg r) ∧
      t.pc = s.pc + 2 ∧ KeepsAllBut [.V, .pc] s t)

/-- `7xkk` ADD: mod 256, VF written only as the destination (R122). -/
def Obligations.AddImmediateWrapsWithoutFlag : Prop :=
  ∀ (x : Reg) (kk : Byte) (s : State),
    decodeWord (0x7#4 ++ regBits x ++ kk) = some (.add x kk) ∧
    ∃ t, exec (.add x kk) s = .next t ∧
      (∀ r, (t.reg r).toNat = if r = x then ((s.reg x).toNat + kk.toNat) % 256 else (s.reg r).toNat) ∧
      t.pc = s.pc + 2 ∧ KeepsAllBut [.V, .pc] s t

/-- `8xy1` OR, `8xy2` AND, `8xy3` XOR, bit by bit; VF written only as the destination (R124, R125,
R126). -/
def Obligations.LogicOpsActBitwiseWithoutFlag : Prop :=
  ∀ (x y : Reg) (s : State),
    decodeWord (0x8#4 ++ regBits x ++ regBits y ++ 0x1#4) = some (.or x y) ∧
    decodeWord (0x8#4 ++ regBits x ++ regBits y ++ 0x2#4) = some (.and x y) ∧
    decodeWord (0x8#4 ++ regBits x ++ regBits y ++ 0x3#4) = some (.xor x y) ∧
    (∃ t, exec (.or x y) s = .next t ∧ t.pc = s.pc + 2 ∧ KeepsAllBut [.V, .pc] s t ∧
      ∀ r i, (t.reg r).getLsbD i =
        if r = x then (s.reg x).getLsbD i || (s.reg y).getLsbD i else (s.reg r).getLsbD i) ∧
    (∃ t, exec (.and x y) s = .next t ∧ t.pc = s.pc + 2 ∧ KeepsAllBut [.V, .pc] s t ∧
      ∀ r i, (t.reg r).getLsbD i =
        if r = x then (s.reg x).getLsbD i && (s.reg y).getLsbD i else (s.reg r).getLsbD i) ∧
    (∃ t, exec (.xor x y) s = .next t ∧ t.pc = s.pc + 2 ∧ KeepsAllBut [.V, .pc] s t ∧
      ∀ r i, (t.reg r).getLsbD i =
        if r = x then (s.reg x).getLsbD i != (s.reg y).getLsbD i else (s.reg r).getLsbD i)

/-- `8xy4` ADD: the sum mod 256 to V[x], then the carry to VF, which wins when x = F (R127;
the operand read when y = F is the old VF: D14, log 15). -/
def Obligations.AddRegWrapsAndSetsCarry : Prop :=
  ∀ (x y : Reg) (s : State),
    decodeWord (0x8#4 ++ regBits x ++ regBits y ++ 0x4#4) = some (.addReg x y) ∧
    ∃ t, exec (.addReg x y) s = .next t ∧ t.pc = s.pc + 2 ∧ KeepsAllBut [.V, .pc] s t ∧
      ∀ r, (t.reg r).toNat =
        if r = 15 then (if (s.reg x).toNat + (s.reg y).toNat > 255 then 1 else 0)
        else if r = x then ((s.reg x).toNat + (s.reg y).toNat) % 256
        else (s.reg r).toNat

/-- `8xy5` SUB: V[x] - V[y] mod 256 to V[x], then not-borrow to VF (R128; the operand read when y = F is
the old VF: D14, log 15). -/
def Obligations.SubWrapsAndSetsNotBorrow : Prop :=
  ∀ (x y : Reg) (s : State),
    decodeWord (0x8#4 ++ regBits x ++ regBits y ++ 0x5#4) = some (.sub x y) ∧
    ∃ t, exec (.sub x y) s = .next t ∧ t.pc = s.pc + 2 ∧ KeepsAllBut [.V, .pc] s t ∧
      ∀ r, (t.reg r).toNat =
        if r = 15 then (if (s.reg x).toNat ≥ (s.reg y).toNat then 1 else 0)
        else if r = x then ((s.reg x).toNat + 256 - (s.reg y).toNat) % 256
        else (s.reg r).toNat

/-- `8xy6` SHR: V[x] halved, then the bit shifted out to VF; V[y] plays no part (R129). -/
def Obligations.ShrHalvesAndSetsLostBit : Prop :=
  ∀ (x y : Reg) (s : State),
    decodeWord (0x8#4 ++ regBits x ++ regBits y ++ 0x6#4) = some (.shr x y) ∧
    ∃ t, exec (.shr x y) s = .next t ∧ t.pc = s.pc + 2 ∧ KeepsAllBut [.V, .pc] s t ∧
      ∀ r, (t.reg r).toNat =
        if r = 15 then (s.reg x).toNat % 2 else if r = x then (s.reg x).toNat / 2 else (s.reg r).toNat

/-- `8xy7` SUBN: V[y] - V[x] mod 256 to V[x], then not-borrow to VF (R130; the operand read when y = F
is the old VF: D14, log 15). -/
def Obligations.SubnWrapsAndSetsNotBorrow : Prop :=
  ∀ (x y : Reg) (s : State),
    decodeWord (0x8#4 ++ regBits x ++ regBits y ++ 0x7#4) = some (.subn x y) ∧
    ∃ t, exec (.subn x y) s = .next t ∧ t.pc = s.pc + 2 ∧ KeepsAllBut [.V, .pc] s t ∧
      ∀ r, (t.reg r).toNat =
        if r = 15 then (if (s.reg y).toNat ≥ (s.reg x).toNat then 1 else 0)
        else if r = x then ((s.reg y).toNat + 256 - (s.reg x).toNat) % 256
        else (s.reg r).toNat

/-- `8xyE` SHL: V[x] doubled mod 256, then the bit shifted out to VF; V[y] plays no part (R131). -/
def Obligations.ShlDoublesAndSetsLostBit : Prop :=
  ∀ (x y : Reg) (s : State),
    decodeWord (0x8#4 ++ regBits x ++ regBits y ++ 0xE#4) = some (.shl x y) ∧
    ∃ t, exec (.shl x y) s = .next t ∧ t.pc = s.pc + 2 ∧ KeepsAllBut [.V, .pc] s t ∧
      ∀ r, (t.reg r).toNat =
        if r = 15 then (s.reg x).toNat / 128 else if r = x then (2 * (s.reg x).toNat) % 256 else (s.reg r).toNat

/-- `Cxkk` RND: V[x] is the free random byte masked by kk, so at most kk, and the next draw is a fresh one
(R133; the byte is a free value, D12, log 2; this holds whatever it is). -/
def Obligations.RndLoadsMaskedRandomByte : Prop :=
  ∀ (x : Reg) (kk : Byte) (s : State),
    decodeWord (0xC#4 ++ regBits x ++ kk) = some (.rnd x kk) ∧
    ∃ t, exec (.rnd x kk) s = .next t ∧
      (∀ r, t.reg r = if r = x then Config.rnd s.rndCount &&& kk else s.reg r) ∧
      (t.reg x).toNat ≤ kk.toNat ∧ t.rndCount = s.rndCount + 1 ∧
      t.pc = s.pc + 2 ∧ KeepsAllBut [.V, .pc, .rndCount] s t

/-! ## Index register and memory (spec 42_index_memory.md, 20_memory.md) -/

/-- The address of byte k of an I-based run is (I + k) mod 4096, from the full 16-bit I (R53, D2,
log 8). -/
def Obligations.EffectiveAddressWrapsModulo4096 : Prop :=
  ∀ (base : Word) (k : Nat), (ea base k).toNat = (base.toNat + k) % 4096

/-- `Annn` LD I loads nnn; `Fx1E` ADD I adds V[x] mod 65536 and writes no flag (R141, R142; that
I holds all 16 bits is D25, log 23). -/
def Obligations.LdIAndAddIWriteTheIndex : Prop :=
  (∀ (nnn : Addr) (s : State),
    decodeWord (0xA#4 ++ nnn) = some (.ldI nnn) ∧
    ∃ t, exec (.ldI nnn) s = .next t ∧ t.I.toNat = nnn.toNat ∧ t.pc = s.pc + 2 ∧ KeepsAllBut [.I, .pc] s t) ∧
  (∀ (x : Reg) (s : State),
    decodeWord (0xF#4 ++ regBits x ++ 0x1E#8) = some (.addIVx x) ∧
    ∃ t, exec (.addIVx x) s = .next t ∧ t.I.toNat = (s.I.toNat + (s.reg x).toNat) % 65536 ∧
      t.pc = s.pc + 2 ∧ KeepsAllBut [.I, .pc] s t)

/-- `Fx29` LD F: I is five times the whole byte (R143; unmasked above 15 by D15, log 16). -/
def Obligations.LdFPointsAtGlyph : Prop :=
  ∀ (x : Reg) (s : State),
    decodeWord (0xF#4 ++ regBits x ++ 0x29#8) = some (.ldFVx x) ∧
    ∃ t, exec (.ldFVx x) s = .next t ∧ t.I.toNat = 5 * (s.reg x).toNat ∧
      t.pc = s.pc + 2 ∧ KeepsAllBut [.I, .pc] s t

/-- `Fx33` LD B: hundreds, tens and units of V[x] at EA(0), EA(1), EA(2), every other byte and I unchanged
(R144; no write protection: D4, log 10; wrap of EA: D2, log 8). -/
def Obligations.LdBStoresThreeDigits : Prop :=
  ∀ (x : Reg) (s : State), s.memory.wf →
    decodeWord (0xF#4 ++ regBits x ++ 0x33#8) = some (.ldBVx x) ∧
    ∃ t, exec (.ldBVx x) s = .next t ∧
      (t.memory.read (ea s.I 0)).toNat = (s.reg x).toNat / 100 ∧
      (t.memory.read (ea s.I 1)).toNat = (s.reg x).toNat / 10 % 10 ∧
      (t.memory.read (ea s.I 2)).toNat = (s.reg x).toNat % 10 ∧
      (∀ a, (∀ k < 3, a ≠ ea s.I k) → t.memory.read a = s.memory.read a) ∧
      t.pc = s.pc + 2 ∧ KeepsAllBut [.memory, .pc] s t

/-- `Fx55` LD [I]: V[k] at EA(k) for k = 0 to x, every other byte and I unchanged (R145; no
write protection: D4, log 10; wrap of EA: D2, log 8). -/
def Obligations.LdMemStoresRegisters : Prop :=
  ∀ (x : Reg) (s : State), s.memory.wf →
    decodeWord (0xF#4 ++ regBits x ++ 0x55#8) = some (.ldMemVx x) ∧
    ∃ t, exec (.ldMemVx x) s = .next t ∧
      (∀ k ≤ x, t.memory.read (ea s.I k.val) = s.reg k) ∧
      (∀ a, (∀ k ≤ x, a ≠ ea s.I k.val) → t.memory.read a = s.memory.read a) ∧
      t.pc = s.pc + 2 ∧ KeepsAllBut [.memory, .pc] s t

/-- `Fx65` LD Vx, [I]: V[k] from EA(k) for k = 0 to x, the registers above x, memory and I unchanged
(R146; wrap of EA: D2, log 8). -/
def Obligations.LdVxMemLoadsRegisters : Prop :=
  ∀ (x : Reg) (s : State),
    decodeWord (0xF#4 ++ regBits x ++ 0x65#8) = some (.ldVxMem x) ∧
    ∃ t, exec (.ldVxMem x) s = .next t ∧
      (∀ r, t.reg r = if r ≤ x then s.memory.read (ea s.I r.val) else s.reg r) ∧
      t.pc = s.pc + 2 ∧ KeepsAllBut [.V, .pc] s t

/-- Two registers stored over the next instruction are the word the next CYCLE fetches (R63; no write
protection: D4, log 10). -/
def Obligations.StoredCodeIsFetchedNext : Prop :=
  ∀ (x k : Reg) (s t : State), s.memory.wf → exec (.ldMemVx x) s = .next t → k.val + 1 ≤ x.val →
    s.pc.toNat + 2 ≤ 0xFFE → (ea s.I k.val).toNat = s.pc.toNat + 2 →
    t.fetch = some (wordOfBytes (s.reg k) (s.reg (k + 1)))

/-- Memories in canonical form that read the same at every address are the same data: the form is one
(the form is the model's own; the 4096 bytes are R50's). -/
def Obligations.EqualReadsAreEqualMemories : Prop :=
  ∀ m m' : Memory, m.wf → m'.wf → (∀ a, m.read a = m'.read a) → m = m'

/-! ## Display (spec 43_display.md) -/

/-- `00E0` CLS: every pixel 0 and draw_flag 1, on a blank display too (R151; D9, log 14). -/
def Obligations.ClsClearsTheDisplay : Prop :=
  decodeWord 0x00E0 = some .cls ∧
  ∀ s : State, ∃ t, exec .cls s = .next t ∧ (∀ r c, t.display.pixel r c = false) ∧ t.drawFlag = true ∧
    t.pc = s.pc + 2 ∧ KeepsAllBut [.display, .drawFlag, .pc] s t

/-- `Dxyn` DRW: exactly the covered pixels are toggled; VF is 1 when a lit one was turned off and else 0;
draw_flag is 1, n = 0 included (R152; sprite rows D18, log 18; draw_flag D9, log 14; wrap of EA D2,
log 8). -/
def Obligations.DrwTogglesCoveredPixels : Prop :=
  ∀ (x y : Reg) (n : Nibble) (s : State),
    decodeWord (0xD#4 ++ regBits x ++ regBits y ++ n) = some (.drw x y n) ∧
    ∃ t, exec (.drw x y n) s = .next t ∧
      (∀ r c, SpriteCovers s x y n r c → t.display.pixel r c = !s.display.pixel r c) ∧
      (∀ r c, ¬SpriteCovers s x y n r c → t.display.pixel r c = s.display.pixel r c) ∧
      ((∃ r c, SpriteCovers s x y n r c ∧ s.display.pixel r c = true) → t.reg 15 = 1) ∧
      ((∀ r c, SpriteCovers s x y n r c → s.display.pixel r c = false) → t.reg 15 = 0) ∧
      (∀ r, r ≠ 15 → t.reg r = s.reg r) ∧ t.drawFlag = true ∧
      t.pc = s.pc + 2 ∧ KeepsAllBut [.V, .display, .drawFlag, .pc] s t

/-- Drawing the same sprite at the same place twice restores the display, and the second draw reports a
collision exactly when the first left a covered pixel lit (R153 a; sprite rows D18, log 18; wrap of EA
D2, log 8). -/
def Obligations.DrawingTwiceRestoresTheDisplay : Prop :=
  ∀ (x y : Reg) (n : Nibble) (s t : State), exec (.drw x y n) s = .next t →
    (t.reg x).toNat % 64 = (s.reg x).toNat % 64 → (t.reg y).toNat % 32 = (s.reg y).toNat % 32 →
    ∃ u, exec (.drw x y n) t = .next u ∧ u.display = s.display ∧
      (u.reg 15 = 1 ↔ ∃ r c, SpriteCovers s x y n r c ∧ t.display.pixel r c = true)

/-- `display_out` is row-major: the pixel of row r, column c is at index r * 64 + c (R29, R36). -/
def Obligations.DisplayOutIsRowMajor : Prop :=
  ∀ (s : State) (r : Fin 32) (c : Fin 64),
    s.displayOut[r.val * 64 + c.val]'(by omega) = s.display.pixel r c

/-! ## Keypad and timers (spec 44_keypad_timers.md, 60_exceptions.md) -/

/-- `Ex9E` SKP and `ExA1` SKNP: pc + 4 when the key of V[x]'s low four bits is down, is not down, else
pc + 2 (R161, R162; low four bits by D5, log 11). -/
def Obligations.SkipsTestingAKey : Prop :=
  ∀ (x : Reg) (s : State) (k : Key), k.val = (s.reg x).toNat % 16 →
    decodeWord (0xE#4 ++ regBits x ++ 0x9E#8) = some (.skp x) ∧
    decodeWord (0xE#4 ++ regBits x ++ 0xA1#8) = some (.sknp x) ∧
    (∃ t, exec (.skp x) s = .next t ∧ KeepsAllBut [.pc] s t ∧
      t.pc = if s.keypad[k.val] = true then s.pc + 4 else s.pc + 2) ∧
    (∃ t, exec (.sknp x) s = .next t ∧ KeepsAllBut [.pc] s t ∧
      t.pc = if s.keypad[k.val] = true then s.pc + 2 else s.pc + 4)

/-- `Fx0A` LD Vx, K: with every latch 0 the state stays as it is, pc included; else V[x] gets the least
set key (R163; level and lowest key by D6, log 12). -/
def Obligations.KeyWaitWaitsOrLoadsLowestKey : Prop :=
  ∀ (x : Reg) (s : State),
    decodeWord (0xF#4 ++ regBits x ++ 0x0A#8) = some (.ldVxK x) ∧
    ((∀ k : Key, s.keypad[k.val] = false) → exec (.ldVxK x) s = .next s) ∧
    (∀ k : Key, s.keypad[k.val] = true → (∀ j : Key, j < k → s.keypad[j.val] = false) →
      ∃ t, exec (.ldVxK x) s = .next t ∧ (∀ r, (t.reg r).toNat = if r = x then k.val else (s.reg r).toNat) ∧
        t.pc = s.pc + 2 ∧ KeepsAllBut [.V, .pc] s t)

/-- A CYCLE reports `waiting` exactly when it executes the key wait with no key down; a CYCLE that waits
changes nothing (R8, R163, R190; D1, D6, log 12, log 24). -/
def Obligations.WaitingIsReportedForTheKeyWaitAlone : Prop :=
  ∀ s : State, resultOf .cycle s = some .waiting ↔
    (∃ x, s.current = some (.ldVxK x)) ∧ (∀ k : Key, s.keypad[k.val] = false) ∧ cycle s = .next s

/-- `Fx07` LD Vx, DT reads DT; `Fx15` LD DT, Vx and `Fx18` LD ST, Vx write DT and ST; the tone output is then
on for V[x] TICKs (R164, R165, R166). -/
def Obligations.TimerInstructionsReadAndSet : Prop :=
  ∀ (x : Reg) (s : State),
    decodeWord (0xF#4 ++ regBits x ++ 0x07#8) = some (.ldVxDT x) ∧
    decodeWord (0xF#4 ++ regBits x ++ 0x15#8) = some (.ldDTVx x) ∧
    decodeWord (0xF#4 ++ regBits x ++ 0x18#8) = some (.ldSTVx x) ∧
    (∃ t, exec (.ldVxDT x) s = .next t ∧ (∀ r, t.reg r = if r = x then s.delayTimer else s.reg r) ∧
      t.pc = s.pc + 2 ∧ KeepsAllBut [.V, .pc] s t) ∧
    (∃ t, exec (.ldDTVx x) s = .next t ∧ t.delayTimer = s.reg x ∧
      t.pc = s.pc + 2 ∧ KeepsAllBut [.delayTimer, .pc] s t) ∧
    (∃ t, exec (.ldSTVx x) s = .next t ∧ t.soundTimer = s.reg x ∧
      (∀ n, (afterAll (List.replicate n .tick) t).soundOn = true ↔ n < (s.reg x).toNat) ∧
      t.pc = s.pc + 2 ∧ KeepsAllBut [.soundTimer, .pc] s t)

/-- TICK: each timer on its own falls by one, floored at 0, nothing else changes and no result is returned;
so N TICKs leave max(0, DT - N) and max(0, ST - N) (R181; 95_test_vectors.md A9). -/
def Obligations.TicksCountBothTimersDownToZero : Prop :=
  (∀ s : State, ∃ t, perform .tick s = .next t ∧ resultOf .tick s = none ∧
    t.delayTimer.toNat = s.delayTimer.toNat - 1 ∧ t.soundTimer.toNat = s.soundTimer.toNat - 1 ∧
    KeepsAllBut [.delayTimer, .soundTimer] s t) ∧
  (∀ (n : Nat) (s : State),
    (afterAll (List.replicate n .tick) s).delayTimer.toNat = s.delayTimer.toNat - n ∧
    (afterAll (List.replicate n .tick) s).soundTimer.toNat = s.soundTimer.toNat - n)

/-- No instruction but Fx07, Fx15 and Fx18 reads or writes a timer: whatever the two timers hold, any
other gives the same outcome with them set before it or after it (R27, R160). -/
def Obligations.TimersAreReachedByThreeInstructionsOnly : Prop :=
  ∀ (i : Instr) (s : State) (v w : Byte), usesTimers i = false →
    exec i ((s.setDT v).setST w) = mapNext (fun t => (t.setDT v).setST w) (exec i s)

/-- No instruction but Ex9E, ExA1 and Fx0A reads a key latch: any other gives the same outcome whether a KEY
comes before or after it; and none at all, those three included, writes one (R30, R160). -/
def Obligations.KeypadIsReachedByThreeInstructionsOnly : Prop :=
  (∀ (i : Instr) (s : State) (k : Key) (b : Bool), usesKeypad i = false →
    exec i (s.setKey k b) = mapNext (fun t => t.setKey k b) (exec i s)) ∧
  (∀ (i : Instr) (s t : State), exec i s = .next t → t.keypad = s.keypad)

/-- KEY sets one latch to the value given, DRAW_ACK clears draw_flag, and neither changes anything else or
returns a result (R184, R185; the transitions and their results are packaged by D1, log 24). -/
def Obligations.KeyAndDrawAckWriteOneElement : Prop :=
  (∀ (k : Key) (b : Bool) (s : State), ∃ t, perform (.key k b) s = .next t ∧ resultOf (.key k b) s = none ∧
    (∀ j : Key, t.keypad[j.val] = if j = k then b else s.keypad[j.val]) ∧ KeepsAllBut [.keypad] s t) ∧
  (∀ s : State, ∃ t, perform .drawAck s = .next t ∧ resultOf .drawAck s = none ∧ t.drawFlag = false ∧
    KeepsAllBut [.drawFlag] s t)

/-! ## Reset and load (spec 70_reset_and_hazards.md) -/

/-- RESET: every element at R37's value; the parameter FONT, whatever its bytes, at 0x000 to 0x04F, and
every other byte kept (R37, R200; memory D10, log 4; draw_flag D11, log 6; FONT D17, log 5). -/
def Obligations.ResetGivesEveryElementItsValue : Prop :=
  ∀ s : State, s.memory.wf → ∃ t, perform .reset s = .next t ∧
    t.pc = 0x200 ∧ t.I = 0 ∧ t.sp = 0 ∧ (∀ r, t.reg r = 0) ∧ (∀ i : Fin 16, t.stack[i.val] = 0) ∧
    (∀ r c, t.display.pixel r c = false) ∧ (∀ k : Key, t.keypad[k.val] = false) ∧
    t.delayTimer = 0 ∧ t.soundTimer = 0 ∧ t.drawFlag = false ∧
    (∀ a : Addr, t.memory.read a = if h : a.toNat < 80 then s.font[a.toNat] else s.memory.read a) ∧
    t.font = s.font

/-- Power-on and the first RESET, for any FONT and MEM_INIT: memory holds the two, and every other element
is as in the reset state (R9, R202; the parameters D17, D10, log 5, log 4; draw_flag D11, log 6). -/
def Obligations.PowerOnHoldsFontAndMemInit : Prop :=
  ∀ (font : Vector Byte 80) (memInit : Vector Byte 4016),
    (∀ a : Addr, (State.powerOn font memInit).memory.read a =
      if h : a.toNat < 80 then font[a.toNat] else memInit[a.toNat - 80]'(by omega)) ∧
    (State.powerOn font memInit).font = font ∧
    KeepsAllBut [.memory, .font] State.reset (State.powerOn font memInit)

/-- The reset state is power-on with the default FONT and MEM_INIT (R9, R37, R202; the defaults D17, D10,
log 5, log 4). -/
def Obligations.ResetIsPowerOnWithTheDefaults : Prop :=
  State.powerOn Config.defaultFont Config.defaultMemInit = State.reset

/-- Two RESETs leave the same state as one, as data (R201; what RESET leaves of memory and draw_flag is
D10, log 4, and D11, log 6). -/
def Obligations.ResetIsIdempotent : Prop :=
  ∀ s : State, s.memory.wf → after .reset (after .reset s) = after .reset s

/-- LOAD: at most 3584 bytes are copied from 0x200 up in order and nothing else changes; a longer program
is the fault ProgramTooLarge with nothing copied; an empty one changes nothing (R175, R203; that it holds in
every state, not only after a RESET, is D16, log 17). -/
def Obligations.LoadCopiesAFittingProgram : Prop :=
  ∀ (bytes : List Byte) (s : State), s.memory.wf →
    (bytes.length ≤ 3584 → ∃ t, perform (.load bytes) s = .next t ∧ resultOf (.load bytes) s = some .ok ∧
      (∀ (a : Addr) (i : Fin bytes.length), a.toNat = 0x200 + i.val → t.memory.read a = bytes[i.val]) ∧
      (∀ a : Addr, a.toNat < 0x200 ∨ 0x200 + bytes.length ≤ a.toNat → t.memory.read a = s.memory.read a) ∧
      KeepsAllBut [.memory] s t) ∧
    (3584 < bytes.length →
      perform (.load bytes) s = .fault (.programTooLarge bytes.length) ∧ after (.load bytes) s = s) ∧
    (bytes = [] → perform (.load bytes) s = .next s)

/-! ## The whole machine -/

/-- An instruction changes nothing but pc and the elements R35's access matrix lists for it (R35;
draw_flag by D9, log 14). -/
def Obligations.InstructionsWriteOnlyWhatTheMatrixLists : Prop :=
  ∀ (i : Instr) (s t : State), exec i s = .next t → KeepsAllBut (.pc :: mayWrite i) s t

/-- A register changes only as a named destination or as VF of the six flag-writing instructions, and
those leave 0 or 1 in VF (R22; VF last: D14, log 15). -/
def Obligations.OnlySixInstructionsWriteTheFlag : Prop :=
  ∀ (i : Instr) (s t : State), exec i s = .next t →
    (∀ r, mayWriteReg i r = false → t.reg r = s.reg r) ∧
    (writesFlag i = true → t.reg 15 = 0 ∨ t.reg 15 = 1)

/-- R38's invariant, with memory in canonical form, holds after reset, for any FONT and MEM_INIT (R38, R9). -/
def Obligations.ReachableInvHoldsAtReset : Prop :=
  ReachableInv State.reset ∧ ∀ font memInit, ReachableInv (State.powerOn font memInit)

/-- R38's invariant, with memory in canonical form, is kept by every step from every state that has it,
whatever transition is next (R38). -/
def Obligations.EveryStepKeepsReachableInv : Prop :=
  ∀ s t : State, ReachableInv s → step s = .next t → ReachableInv t

/-- A program that keeps the duties of R205 does not fault, and leaves every byte below 0x200, the font
among them, as it was (R205). -/
def Obligations.DutifulProgramRunsAndKeepsLowMemory : Prop :=
  ∀ s : State, s.memory.wf → s.dutyKept = true →
    ∃ t, cycle s = .next t ∧ ∀ a : Addr, a.toNat < 0x200 → t.memory.read a = s.memory.read a
end

