-- ==== Sys2Proof/Laws/Display.lean ====
section
/-! SUPPORT. What one pixel operation, one sprite row and a whole sprite do to every pixel and to the
collision (spec 43_display.md R150 to R152). -/

namespace Sys2Proof.Machine

@[simp] theorem Display.pixel_toggle (d : Display) (r r' : Fin 32) (c c' : Fin 64) :
    (d.toggle r c).pixel r' c' =
      if r' = r ∧ c' = c then !d.pixel r' c' else d.pixel r' c' := by
  simp only [Display.pixel, Display.toggle, Vector.getElem_set]
  by_cases hr : r' = r
  · subst hr
    by_cases hc : c' = c
    · subst hc; simp
    · have : ¬c.val = c'.val := fun h => hc (Fin.ext h.symm)
      simp [hc, this]
  · have : ¬r.val = r'.val := fun h => hr (Fin.ext h.symm)
    simp [hr, this]

@[simp] theorem Display.pixel_blank (r : Fin 32) (c : Fin 64) : Display.blank.pixel r c = false := by
  simp [Display.blank, Display.pixel]

/-- Displays are equal when every pixel is. -/
theorem Display.ext_pixel (d e : Display) (h : ∀ r c, d.pixel r c = e.pixel r c) : d = e :=
  Vector.ext fun r hr => Vector.ext fun c hc => h ⟨r, hr⟩ ⟨c, hc⟩

/-- The inner step toggles the one pixel a sprite bit covers, and no other. -/
theorem blitPixel_pixel (row : Fin 32) (x0 : Nat) (b : Byte) (s : Blit) (k : Nat) (r : Fin 32) (c : Fin 64) :
    (blitPixel row x0 b s k).display.pixel r c =
      if spriteBit b k = true ∧ r = row ∧ c = Fin.ofNat 64 (x0 + k) then !s.display.pixel r c
      else s.display.pixel r c := by
  unfold blitPixel
  split <;> simp_all

/-- The inner step records a collision when the pixel it toggles was lit. -/
theorem blitPixel_hit (row : Fin 32) (x0 : Nat) (b : Byte) (s : Blit) (k : Nat) :
    (blitPixel row x0 b s k).hit =
      (s.hit || (spriteBit b k && s.display.pixel row (Fin.ofNat 64 (x0 + k)))) := by
  unfold blitPixel
  split <;> simp_all

/-! ## A whole row, a whole sprite -/

/-- A 1 bit of the sprite row byte `b`, drawn with its left edge at column x0, falls on column c from
one of its first n columns. -/
abbrev RowBitAt (b : Byte) (x0 n : Nat) (c : Fin 64) : Prop :=
  ∃ j < n, c.val = (x0 + j) % 64 ∧ b.getLsbD (7 - j) = true

/-- A 1 bit of one of the first n rows of the sprite at `base` falls on row r, column c. -/
abbrev SpriteBitAt (m : Memory) (base : Word) (x0 y0 n : Nat) (r : Fin 32) (c : Fin 64) : Prop :=
  ∃ i < n, r.val = (y0 + i) % 32 ∧ RowBitAt (m.read (ea base i)) x0 8 c

theorem rowBitAt_succ (b : Byte) (x0 n : Nat) (c : Fin 64) :
    RowBitAt b x0 (n + 1) c ↔
      RowBitAt b x0 n c ∨ (c = Fin.ofNat 64 (x0 + n) ∧ spriteBit b n = true) := by
  simp only [RowBitAt, Nat.lt_succ_iff_lt_or_eq, or_and_right, exists_or, exists_eq_left]
  exact or_congr Iff.rfl (and_congr ⟨fun h => Fin.ext h, fun h => congrArg Fin.val h⟩ Iff.rfl)

theorem spriteBitAt_succ (m : Memory) (base : Word) (x0 y0 n : Nat) (r : Fin 32) (c : Fin 64) :
    SpriteBitAt m base x0 y0 (n + 1) r c ↔
      SpriteBitAt m base x0 y0 n r c ∨
        (r = Fin.ofNat 32 (y0 + n) ∧ RowBitAt (m.read (ea base n)) x0 8 c) := by
  simp only [SpriteBitAt, Nat.lt_succ_iff_lt_or_eq, or_and_right, exists_or, exists_eq_left]
  exact or_congr Iff.rfl (and_congr ⟨fun h => Fin.ext h, fun h => congrArg Fin.val h⟩ Iff.rfl)

/-- Eight columns or fewer do not wrap onto each other. -/
theorem not_rowBitAt_next (b : Byte) (x0 n : Nat) (hn : n < 64) :
    ¬RowBitAt b x0 n (Fin.ofNat 64 (x0 + n)) := by
  rintro ⟨j, hj, h, _⟩
  have : (x0 + n) % 64 = (x0 + j) % 64 := h
  omega

/-- Fifteen rows or fewer do not wrap onto each other. -/
theorem not_spriteBitAt_next (m : Memory) (base : Word) (x0 y0 n : Nat) (hn : n < 32) (c : Fin 64) :
    ¬SpriteBitAt m base x0 y0 n (Fin.ofNat 32 (y0 + n)) c := by
  rintro ⟨i, hi, h, _⟩
  have : (y0 + n) % 32 = (y0 + i) % 32 := h
  omega

/-- A row toggles exactly the pixels its 1 bits fall on. -/
theorem foldl_blitPixel_pixel (row : Fin 32) (x0 : Nat) (b : Byte) (s : Blit) (n : Nat) (hn : n ≤ 8)
    (r : Fin 32) (c : Fin 64) :
    ((List.range n).foldl (blitPixel row x0 b) s).display.pixel r c =
      if r = row ∧ RowBitAt b x0 n c then !s.display.pixel r c else s.display.pixel r c := by
  induction n with
  | zero => simp [RowBitAt]
  | succ n ih =>
    rw [List.range_succ, List.foldl_append, List.foldl_cons, List.foldl_nil, blitPixel_pixel, ih (by omega)]
    have hnext := not_rowBitAt_next b x0 n (by omega)
    simp only [rowBitAt_succ]
    by_cases hr : r = row <;> by_cases hc : c = Fin.ofNat 64 (x0 + n)
    · subst hc; simp [-Fin.ofNat_eq_cast, hr, hnext]
    all_goals simp [-Fin.ofNat_eq_cast, hr, hc]

/-- A row records a collision exactly when a pixel its 1 bits fall on was lit. -/
theorem foldl_blitPixel_hit (row : Fin 32) (x0 : Nat) (b : Byte) (s : Blit) (n : Nat) (hn : n ≤ 8) :
    ((List.range n).foldl (blitPixel row x0 b) s).hit = true ↔
      s.hit = true ∨ ∃ c, RowBitAt b x0 n c ∧ s.display.pixel row c = true := by
  induction n with
  | zero => simp [RowBitAt]
  | succ n ih =>
    have hnext := not_rowBitAt_next b x0 n (by omega)
    rw [List.range_succ, List.foldl_append, List.foldl_cons, List.foldl_nil, blitPixel_hit,
      Bool.or_eq_true, ih (by omega), Bool.and_eq_true, foldl_blitPixel_pixel _ _ _ _ _ (by omega)]
    simp only [rowBitAt_succ, or_and_right, exists_or, hnext, and_false, if_false, or_assoc, and_assoc,
      exists_eq_left]

/-- `blit` toggles exactly the pixels the sprite's 1 bits fall on (R152). -/
theorem blit_pixel (m : Memory) (base : Word) (x0 y0 n : Nat) (d : Display) (hn : n ≤ 15)
    (r : Fin 32) (c : Fin 64) :
    (blit m base x0 y0 n d).display.pixel r c =
      if SpriteBitAt m base x0 y0 n r c then !d.pixel r c else d.pixel r c := by
  induction n with
  | zero => simp [blit, SpriteBitAt]
  | succ n ih =>
    have ih := ih (by omega)
    have hnext := fun c => not_spriteBitAt_next m base x0 y0 n (by omega) c
    rw [blit] at ih ⊢
    rw [List.range_succ, List.foldl_append, List.foldl_cons, List.foldl_nil, blitRow,
      foldl_blitPixel_pixel _ _ _ _ _ le_rfl, ih]
    simp only [spriteBitAt_succ]
    by_cases hr : r = Fin.ofNat 32 (y0 + n)
    · subst hr; simp only [hnext, true_and, false_or, if_false]
    · simp only [hr, false_and, or_false, if_false]

/-- `blit` reports a collision exactly when a pixel the sprite's 1 bits fall on was lit (R152). -/
theorem blit_hit (m : Memory) (base : Word) (x0 y0 n : Nat) (d : Display) (hn : n ≤ 15) :
    (blit m base x0 y0 n d).hit = true ↔
      ∃ r c, SpriteBitAt m base x0 y0 n r c ∧ d.pixel r c = true := by
  induction n with
  | zero => simp [blit, SpriteBitAt]
  | succ n ih =>
    have ih := ih (by omega)
    have hpix := blit_pixel m base x0 y0 n d (by omega)
    have hnext := fun c => not_spriteBitAt_next m base x0 y0 n (by omega) c
    rw [blit] at ih hpix ⊢
    rw [List.range_succ, List.foldl_append, List.foldl_cons, List.foldl_nil, blitRow,
      foldl_blitPixel_hit _ _ _ _ _ le_rfl, ih]
    simp only [spriteBitAt_succ, or_and_right, exists_or, hpix, hnext, if_false, and_assoc,
      exists_and_left, exists_eq_left]

end Sys2Proof.Machine
end

