-- ==== Sys2Proof/Laws/Memory.lean ====
section
/-! SUPPORT. The laws of memory: a read after a write, other bytes kept, the canonical form kept;
and the same for a run of stores. -/

namespace Sys2Proof.Machine

/-! ## One cell -/

theorem Memory.byteAt_of_lt (m : Memory) (a : Nat) (h : ∀ c ∈ m, a < c.1) :
    m.byteAt a = Memory.unlisted a := by
  induction m with
  | nil => rfl
  | cons c m ih =>
    have hc := h c (by simp)
    rw [Memory.byteAt, if_neg (by omega)]
    exact ih fun d hd => h d (by simp [hd])

/-- A lookup after a put, in a list of strictly rising addresses. -/
theorem Memory.byteAt_put (m : Memory) (a b : Nat) (v : Byte)
    (hm : m.Pairwise (fun p q => p.1 < q.1)) :
    (m.put a v).byteAt b = if b = a then v else m.byteAt b := by
  induction m with
  | nil =>
    by_cases hv : v = Memory.unlisted a <;> by_cases hb : b = a <;>
      simp_all [Memory.put, Memory.byteAt, eq_comm]
  | cons c m ih =>
    obtain ⟨k, w⟩ := c
    have hrest := (List.pairwise_cons.1 hm).1
    have ih := ih (List.pairwise_cons.1 hm).2
    have low : ∀ n, n ≤ k → Memory.byteAt m n = Memory.unlisted n := fun n hn =>
      Memory.byteAt_of_lt m n fun c hc => lt_of_le_of_lt hn (hrest c hc)
    unfold Memory.put
    split
    · -- a < k
      rename_i hak
      split
      · by_cases hb : b = a
        · subst hb; simp [Memory.byteAt, low b hak.le, *, hak.ne']
        · simp [hb]
      · by_cases hb : b = a
        · simp [Memory.byteAt, hb]
        · simp [Memory.byteAt, hb, Ne.symm hb]
    · split
      · -- a = k
        rename_i _ hak
        subst hak
        split
        · by_cases hb : b = a
          · simp [low a le_rfl, *]
          · simp [Memory.byteAt, hb, Ne.symm hb]
        · by_cases hb : b = a
          · simp [Memory.byteAt, hb]
          · simp [Memory.byteAt, hb, Ne.symm hb]
      · -- k < a
        rename_i hak hne
        by_cases hb : k = b
        · simp [Memory.byteAt, hb, show b ≠ a by omega]
        · simp [Memory.byteAt, hb, ih]

theorem Memory.put_keys (m : Memory) (a : Nat) (v : Byte) (c : Host.Cell) (hc : c ∈ m.put a v) :
    (c = (a, v) ∧ v ≠ Memory.unlisted a) ∨ c ∈ m := by
  induction m with
  | nil =>
    unfold Memory.put at hc
    split at hc <;> simp_all
  | cons d m ih =>
    obtain ⟨k, w⟩ := d
    unfold Memory.put at hc
    split at hc
    · split at hc <;> simp_all
    · split at hc
      · split at hc
        · exact .inr (List.mem_cons_of_mem _ hc)
        · rcases List.mem_cons.1 hc with rfl | h
          · exact .inl ⟨rfl, ‹_›⟩
          · exact .inr (List.mem_cons_of_mem _ h)
      · rcases List.mem_cons.1 hc with rfl | h
        · exact .inr (by simp)
        · exact (ih h).imp_right (List.mem_cons_of_mem _)

theorem Memory.put_pairwise (m : Memory) (a : Nat) (v : Byte)
    (hm : m.Pairwise (fun p q => p.1 < q.1)) : (m.put a v).Pairwise (fun p q => p.1 < q.1) := by
  induction m with
  | nil => unfold Memory.put; split <;> simp
  | cons d m ih =>
    obtain ⟨k, w⟩ := d
    obtain ⟨hk, hm'⟩ := List.pairwise_cons.1 hm
    unfold Memory.put
    split
    · rename_i hak
      split
      · exact hm
      · refine List.pairwise_cons.2 ⟨fun c hc => ?_, hm⟩
        rcases List.mem_cons.1 hc with rfl | h
        · exact hak
        · exact hak.trans (hk c h)
    · split
      · rename_i _ hak
        subst hak
        split
        · exact hm'
        · exact List.pairwise_cons.2 ⟨hk, hm'⟩
      · refine List.pairwise_cons.2 ⟨fun c hc => ?_, ih hm'⟩
        rcases Memory.put_keys m a v c hc with ⟨rfl, _⟩ | h
        · simp only; omega
        · exact hk c h

/-! ## MemRead and MemWrite -/

/-- A write keeps the canonical form. -/
theorem Memory.write_wf (m : Memory) (a : Addr) (v : Byte) (hm : m.wf) : (m.write a v).wf := by
  refine ⟨Memory.put_pairwise m _ v hm.1, fun c hc => ?_⟩
  rcases Memory.put_keys m _ v c hc with ⟨rfl, hv⟩ | h
  · exact ⟨a.isLt, hv⟩
  · exact hm.2 c h

/-- A read after a write gives the value written, and every other byte reads as before. -/
theorem Memory.read_write (m : Memory) (a b : Addr) (v : Byte) (hm : m.wf) :
    (m.write a v).read b = if b = a then v else m.read b := by
  simp only [Memory.read, Memory.write, Memory.byteAt_put m _ _ v hm.1, BitVec.toNat_inj]

/-- The empty list, reset's memory, is in canonical form. -/
theorem Memory.wf_nil : Memory.wf [] := by simp [Memory.wf]

/-! ## A run of stores -/

theorem Memory.storeRun_wf (m : Memory) (base : Word) (k : Nat) (bs : List Byte) (hm : m.wf) :
    (m.storeRun base k bs).wf := by
  induction bs generalizing m k with
  | nil => exact hm
  | cons b bs ih => exact ih _ _ (Memory.write_wf m _ b hm)

/-- Two offsets of one base less than 4096 apart are different addresses (R53). -/
theorem ea_ne (base : Word) (j k : Nat) (hjk : j < k) (hk : k < j + 4096) : ea base j ≠ ea base k := by
  intro h
  have := congrArg BitVec.toNat h
  simp only [ea, BitVec.toNat_ofNat] at this
  omega

/-- Outside the stored run every byte reads as before. -/
theorem Memory.read_storeRun_outside (m : Memory) (base : Word) (k : Nat) (bs : List Byte) (b : Addr)
    (hm : m.wf) (hb : ∀ j < bs.length, b ≠ ea base (k + j)) :
    (m.storeRun base k bs).read b = m.read b := by
  induction bs generalizing m k with
  | nil => rfl
  | cons v bs ih =>
    rw [Memory.storeRun, ih _ _ (Memory.write_wf m _ v hm), Memory.read_write m _ _ v hm]
    · exact if_neg (by simpa using hb 0 (by simp))
    · intro j hj
      have := hb (j + 1) (by simpa using hj)
      rwa [show k + (j + 1) = k + 1 + j by omega] at this

/-- The j-th byte of a stored run of at most 4096 bytes is the j-th byte stored. -/
theorem Memory.read_storeRun_inside (m : Memory) (base : Word) (k : Nat) (bs : List Byte) (j : Nat)
    (hm : m.wf) (hlen : bs.length ≤ 4096) (hj : j < bs.length) :
    (m.storeRun base k bs).read (ea base (k + j)) = bs[j] := by
  induction bs generalizing m k j with
  | nil => simp at hj
  | cons v bs ih =>
    simp only [List.length_cons] at hlen hj
    rw [Memory.storeRun]
    cases j with
    | zero =>
      rw [Memory.read_storeRun_outside _ _ _ _ _ (Memory.write_wf m _ v hm), Memory.read_write m _ _ v hm]
      · simp
      · intro i hi
        exact ea_ne base _ _ (by omega) (by omega)
    | succ j =>
      have := ih (m.write (ea base k) v) (k + 1) j (Memory.write_wf m _ v hm) (by omega) (by omega)
      rw [show k + (j + 1) = k + 1 + j by omega]
      simpa using this

end Sys2Proof.Machine
end

