-- ==== Sys2Proof/Laws/State.lean ====
section
/-! SUPPORT. One lemma per field per update of State, each true by rfl, so that no proof unfolds a
record update. `reg` and `keyDown` are the reads the updates are seen through. -/

namespace Sys2Proof.Machine

variable (s : State)

/-! setReg -/

@[simp] theorem State.setReg_V (x : Reg) (v : Byte) : (s.setReg x v).V = s.V.set x.val v := rfl
@[simp] theorem State.setReg_I (x : Reg) (v : Byte) : (s.setReg x v).I = s.I := rfl
@[simp] theorem State.setReg_pc (x : Reg) (v : Byte) : (s.setReg x v).pc = s.pc := rfl
@[simp] theorem State.setReg_stack (x : Reg) (v : Byte) : (s.setReg x v).stack = s.stack := rfl
@[simp] theorem State.setReg_sp (x : Reg) (v : Byte) : (s.setReg x v).sp = s.sp := rfl
@[simp] theorem State.setReg_delayTimer (x : Reg) (v : Byte) : (s.setReg x v).delayTimer = s.delayTimer := rfl
@[simp] theorem State.setReg_soundTimer (x : Reg) (v : Byte) : (s.setReg x v).soundTimer = s.soundTimer := rfl
@[simp] theorem State.setReg_display (x : Reg) (v : Byte) : (s.setReg x v).display = s.display := rfl
@[simp] theorem State.setReg_keypad (x : Reg) (v : Byte) : (s.setReg x v).keypad = s.keypad := rfl
@[simp] theorem State.setReg_drawFlag (x : Reg) (v : Byte) : (s.setReg x v).drawFlag = s.drawFlag := rfl
@[simp] theorem State.setReg_memory (x : Reg) (v : Byte) : (s.setReg x v).memory = s.memory := rfl
@[simp] theorem State.setReg_font (x : Reg) (v : Byte) : (s.setReg x v).font = s.font := rfl
@[simp] theorem State.setReg_rndCount (x : Reg) (v : Byte) : (s.setReg x v).rndCount = s.rndCount := rfl
@[simp] theorem State.setReg_schedule (x : Reg) (v : Byte) : (s.setReg x v).schedule = s.schedule := rfl
@[simp] theorem State.setReg_keyDown (x : Reg) (v : Byte) (j : Key) : (s.setReg x v).keyDown j = s.keyDown j := rfl

/-! setI -/

@[simp] theorem State.setI_V (v : Word) : (s.setI v).V = s.V := rfl
@[simp] theorem State.setI_I (v : Word) : (s.setI v).I = v := rfl
@[simp] theorem State.setI_pc (v : Word) : (s.setI v).pc = s.pc := rfl
@[simp] theorem State.setI_stack (v : Word) : (s.setI v).stack = s.stack := rfl
@[simp] theorem State.setI_sp (v : Word) : (s.setI v).sp = s.sp := rfl
@[simp] theorem State.setI_delayTimer (v : Word) : (s.setI v).delayTimer = s.delayTimer := rfl
@[simp] theorem State.setI_soundTimer (v : Word) : (s.setI v).soundTimer = s.soundTimer := rfl
@[simp] theorem State.setI_display (v : Word) : (s.setI v).display = s.display := rfl
@[simp] theorem State.setI_keypad (v : Word) : (s.setI v).keypad = s.keypad := rfl
@[simp] theorem State.setI_drawFlag (v : Word) : (s.setI v).drawFlag = s.drawFlag := rfl
@[simp] theorem State.setI_memory (v : Word) : (s.setI v).memory = s.memory := rfl
@[simp] theorem State.setI_font (v : Word) : (s.setI v).font = s.font := rfl
@[simp] theorem State.setI_rndCount (v : Word) : (s.setI v).rndCount = s.rndCount := rfl
@[simp] theorem State.setI_schedule (v : Word) : (s.setI v).schedule = s.schedule := rfl
@[simp] theorem State.setI_reg (v : Word) (r : Reg) : (s.setI v).reg r = s.reg r := rfl
@[simp] theorem State.setI_keyDown (v : Word) (j : Key) : (s.setI v).keyDown j = s.keyDown j := rfl

/-! setPc -/

@[simp] theorem State.setPc_V (p : Word) : (s.setPc p).V = s.V := rfl
@[simp] theorem State.setPc_I (p : Word) : (s.setPc p).I = s.I := rfl
@[simp] theorem State.setPc_pc (p : Word) : (s.setPc p).pc = p := rfl
@[simp] theorem State.setPc_stack (p : Word) : (s.setPc p).stack = s.stack := rfl
@[simp] theorem State.setPc_sp (p : Word) : (s.setPc p).sp = s.sp := rfl
@[simp] theorem State.setPc_delayTimer (p : Word) : (s.setPc p).delayTimer = s.delayTimer := rfl
@[simp] theorem State.setPc_soundTimer (p : Word) : (s.setPc p).soundTimer = s.soundTimer := rfl
@[simp] theorem State.setPc_display (p : Word) : (s.setPc p).display = s.display := rfl
@[simp] theorem State.setPc_keypad (p : Word) : (s.setPc p).keypad = s.keypad := rfl
@[simp] theorem State.setPc_drawFlag (p : Word) : (s.setPc p).drawFlag = s.drawFlag := rfl
@[simp] theorem State.setPc_memory (p : Word) : (s.setPc p).memory = s.memory := rfl
@[simp] theorem State.setPc_font (p : Word) : (s.setPc p).font = s.font := rfl
@[simp] theorem State.setPc_rndCount (p : Word) : (s.setPc p).rndCount = s.rndCount := rfl
@[simp] theorem State.setPc_schedule (p : Word) : (s.setPc p).schedule = s.schedule := rfl
@[simp] theorem State.setPc_reg (p : Word) (r : Reg) : (s.setPc p).reg r = s.reg r := rfl
@[simp] theorem State.setPc_keyDown (p : Word) (j : Key) : (s.setPc p).keyDown j = s.keyDown j := rfl

/-! advance -/

@[simp] theorem State.advance_V : (s.advance).V = s.V := rfl
@[simp] theorem State.advance_I : (s.advance).I = s.I := rfl
@[simp] theorem State.advance_pc : (s.advance).pc = s.pc + 2 := rfl
@[simp] theorem State.advance_stack : (s.advance).stack = s.stack := rfl
@[simp] theorem State.advance_sp : (s.advance).sp = s.sp := rfl
@[simp] theorem State.advance_delayTimer : (s.advance).delayTimer = s.delayTimer := rfl
@[simp] theorem State.advance_soundTimer : (s.advance).soundTimer = s.soundTimer := rfl
@[simp] theorem State.advance_display : (s.advance).display = s.display := rfl
@[simp] theorem State.advance_keypad : (s.advance).keypad = s.keypad := rfl
@[simp] theorem State.advance_drawFlag : (s.advance).drawFlag = s.drawFlag := rfl
@[simp] theorem State.advance_memory : (s.advance).memory = s.memory := rfl
@[simp] theorem State.advance_font : (s.advance).font = s.font := rfl
@[simp] theorem State.advance_rndCount : (s.advance).rndCount = s.rndCount := rfl
@[simp] theorem State.advance_schedule : (s.advance).schedule = s.schedule := rfl
@[simp] theorem State.advance_reg (r : Reg) : (s.advance).reg r = s.reg r := rfl
@[simp] theorem State.advance_keyDown (j : Key) : (s.advance).keyDown j = s.keyDown j := rfl

/-! skipIf -/

@[simp] theorem State.skipIf_V (c : Bool) : (s.skipIf c).V = s.V := rfl
@[simp] theorem State.skipIf_I (c : Bool) : (s.skipIf c).I = s.I := rfl
@[simp] theorem State.skipIf_pc (c : Bool) : (s.skipIf c).pc = s.pc + if c then 4 else 2 := rfl
@[simp] theorem State.skipIf_stack (c : Bool) : (s.skipIf c).stack = s.stack := rfl
@[simp] theorem State.skipIf_sp (c : Bool) : (s.skipIf c).sp = s.sp := rfl
@[simp] theorem State.skipIf_delayTimer (c : Bool) : (s.skipIf c).delayTimer = s.delayTimer := rfl
@[simp] theorem State.skipIf_soundTimer (c : Bool) : (s.skipIf c).soundTimer = s.soundTimer := rfl
@[simp] theorem State.skipIf_display (c : Bool) : (s.skipIf c).display = s.display := rfl
@[simp] theorem State.skipIf_keypad (c : Bool) : (s.skipIf c).keypad = s.keypad := rfl
@[simp] theorem State.skipIf_drawFlag (c : Bool) : (s.skipIf c).drawFlag = s.drawFlag := rfl
@[simp] theorem State.skipIf_memory (c : Bool) : (s.skipIf c).memory = s.memory := rfl
@[simp] theorem State.skipIf_font (c : Bool) : (s.skipIf c).font = s.font := rfl
@[simp] theorem State.skipIf_rndCount (c : Bool) : (s.skipIf c).rndCount = s.rndCount := rfl
@[simp] theorem State.skipIf_schedule (c : Bool) : (s.skipIf c).schedule = s.schedule := rfl
@[simp] theorem State.skipIf_reg (c : Bool) (r : Reg) : (s.skipIf c).reg r = s.reg r := rfl
@[simp] theorem State.skipIf_keyDown (c : Bool) (j : Key) : (s.skipIf c).keyDown j = s.keyDown j := rfl

/-! setDT -/

@[simp] theorem State.setDT_V (v : Byte) : (s.setDT v).V = s.V := rfl
@[simp] theorem State.setDT_I (v : Byte) : (s.setDT v).I = s.I := rfl
@[simp] theorem State.setDT_pc (v : Byte) : (s.setDT v).pc = s.pc := rfl
@[simp] theorem State.setDT_stack (v : Byte) : (s.setDT v).stack = s.stack := rfl
@[simp] theorem State.setDT_sp (v : Byte) : (s.setDT v).sp = s.sp := rfl
@[simp] theorem State.setDT_delayTimer (v : Byte) : (s.setDT v).delayTimer = v := rfl
@[simp] theorem State.setDT_soundTimer (v : Byte) : (s.setDT v).soundTimer = s.soundTimer := rfl
@[simp] theorem State.setDT_display (v : Byte) : (s.setDT v).display = s.display := rfl
@[simp] theorem State.setDT_keypad (v : Byte) : (s.setDT v).keypad = s.keypad := rfl
@[simp] theorem State.setDT_drawFlag (v : Byte) : (s.setDT v).drawFlag = s.drawFlag := rfl
@[simp] theorem State.setDT_memory (v : Byte) : (s.setDT v).memory = s.memory := rfl
@[simp] theorem State.setDT_font (v : Byte) : (s.setDT v).font = s.font := rfl
@[simp] theorem State.setDT_rndCount (v : Byte) : (s.setDT v).rndCount = s.rndCount := rfl
@[simp] theorem State.setDT_schedule (v : Byte) : (s.setDT v).schedule = s.schedule := rfl
@[simp] theorem State.setDT_reg (v : Byte) (r : Reg) : (s.setDT v).reg r = s.reg r := rfl
@[simp] theorem State.setDT_keyDown (v : Byte) (j : Key) : (s.setDT v).keyDown j = s.keyDown j := rfl

/-! setST -/

@[simp] theorem State.setST_V (v : Byte) : (s.setST v).V = s.V := rfl
@[simp] theorem State.setST_I (v : Byte) : (s.setST v).I = s.I := rfl
@[simp] theorem State.setST_pc (v : Byte) : (s.setST v).pc = s.pc := rfl
@[simp] theorem State.setST_stack (v : Byte) : (s.setST v).stack = s.stack := rfl
@[simp] theorem State.setST_sp (v : Byte) : (s.setST v).sp = s.sp := rfl
@[simp] theorem State.setST_delayTimer (v : Byte) : (s.setST v).delayTimer = s.delayTimer := rfl
@[simp] theorem State.setST_soundTimer (v : Byte) : (s.setST v).soundTimer = v := rfl
@[simp] theorem State.setST_display (v : Byte) : (s.setST v).display = s.display := rfl
@[simp] theorem State.setST_keypad (v : Byte) : (s.setST v).keypad = s.keypad := rfl
@[simp] theorem State.setST_drawFlag (v : Byte) : (s.setST v).drawFlag = s.drawFlag := rfl
@[simp] theorem State.setST_memory (v : Byte) : (s.setST v).memory = s.memory := rfl
@[simp] theorem State.setST_font (v : Byte) : (s.setST v).font = s.font := rfl
@[simp] theorem State.setST_rndCount (v : Byte) : (s.setST v).rndCount = s.rndCount := rfl
@[simp] theorem State.setST_schedule (v : Byte) : (s.setST v).schedule = s.schedule := rfl
@[simp] theorem State.setST_reg (v : Byte) (r : Reg) : (s.setST v).reg r = s.reg r := rfl
@[simp] theorem State.setST_keyDown (v : Byte) (j : Key) : (s.setST v).keyDown j = s.keyDown j := rfl

/-! setDrawFlag -/

@[simp] theorem State.setDrawFlag_V (b : Bool) : (s.setDrawFlag b).V = s.V := rfl
@[simp] theorem State.setDrawFlag_I (b : Bool) : (s.setDrawFlag b).I = s.I := rfl
@[simp] theorem State.setDrawFlag_pc (b : Bool) : (s.setDrawFlag b).pc = s.pc := rfl
@[simp] theorem State.setDrawFlag_stack (b : Bool) : (s.setDrawFlag b).stack = s.stack := rfl
@[simp] theorem State.setDrawFlag_sp (b : Bool) : (s.setDrawFlag b).sp = s.sp := rfl
@[simp] theorem State.setDrawFlag_delayTimer (b : Bool) : (s.setDrawFlag b).delayTimer = s.delayTimer := rfl
@[simp] theorem State.setDrawFlag_soundTimer (b : Bool) : (s.setDrawFlag b).soundTimer = s.soundTimer := rfl
@[simp] theorem State.setDrawFlag_display (b : Bool) : (s.setDrawFlag b).display = s.display := rfl
@[simp] theorem State.setDrawFlag_keypad (b : Bool) : (s.setDrawFlag b).keypad = s.keypad := rfl
@[simp] theorem State.setDrawFlag_drawFlag (b : Bool) : (s.setDrawFlag b).drawFlag = b := rfl
@[simp] theorem State.setDrawFlag_memory (b : Bool) : (s.setDrawFlag b).memory = s.memory := rfl
@[simp] theorem State.setDrawFlag_font (b : Bool) : (s.setDrawFlag b).font = s.font := rfl
@[simp] theorem State.setDrawFlag_rndCount (b : Bool) : (s.setDrawFlag b).rndCount = s.rndCount := rfl
@[simp] theorem State.setDrawFlag_schedule (b : Bool) : (s.setDrawFlag b).schedule = s.schedule := rfl
@[simp] theorem State.setDrawFlag_reg (b : Bool) (r : Reg) : (s.setDrawFlag b).reg r = s.reg r := rfl
@[simp] theorem State.setDrawFlag_keyDown (b : Bool) (j : Key) : (s.setDrawFlag b).keyDown j = s.keyDown j := rfl

/-! setMemory -/

@[simp] theorem State.setMemory_V (m : Memory) : (s.setMemory m).V = s.V := rfl
@[simp] theorem State.setMemory_I (m : Memory) : (s.setMemory m).I = s.I := rfl
@[simp] theorem State.setMemory_pc (m : Memory) : (s.setMemory m).pc = s.pc := rfl
@[simp] theorem State.setMemory_stack (m : Memory) : (s.setMemory m).stack = s.stack := rfl
@[simp] theorem State.setMemory_sp (m : Memory) : (s.setMemory m).sp = s.sp := rfl
@[simp] theorem State.setMemory_delayTimer (m : Memory) : (s.setMemory m).delayTimer = s.delayTimer := rfl
@[simp] theorem State.setMemory_soundTimer (m : Memory) : (s.setMemory m).soundTimer = s.soundTimer := rfl
@[simp] theorem State.setMemory_display (m : Memory) : (s.setMemory m).display = s.display := rfl
@[simp] theorem State.setMemory_keypad (m : Memory) : (s.setMemory m).keypad = s.keypad := rfl
@[simp] theorem State.setMemory_drawFlag (m : Memory) : (s.setMemory m).drawFlag = s.drawFlag := rfl
@[simp] theorem State.setMemory_memory (m : Memory) : (s.setMemory m).memory = m := rfl
@[simp] theorem State.setMemory_font (m : Memory) : (s.setMemory m).font = s.font := rfl
@[simp] theorem State.setMemory_rndCount (m : Memory) : (s.setMemory m).rndCount = s.rndCount := rfl
@[simp] theorem State.setMemory_schedule (m : Memory) : (s.setMemory m).schedule = s.schedule := rfl
@[simp] theorem State.setMemory_reg (m : Memory) (r : Reg) : (s.setMemory m).reg r = s.reg r := rfl
@[simp] theorem State.setMemory_keyDown (m : Memory) (j : Key) : (s.setMemory m).keyDown j = s.keyDown j := rfl

/-! setDisplay -/

@[simp] theorem State.setDisplay_V (d : Display) : (s.setDisplay d).V = s.V := rfl
@[simp] theorem State.setDisplay_I (d : Display) : (s.setDisplay d).I = s.I := rfl
@[simp] theorem State.setDisplay_pc (d : Display) : (s.setDisplay d).pc = s.pc := rfl
@[simp] theorem State.setDisplay_stack (d : Display) : (s.setDisplay d).stack = s.stack := rfl
@[simp] theorem State.setDisplay_sp (d : Display) : (s.setDisplay d).sp = s.sp := rfl
@[simp] theorem State.setDisplay_delayTimer (d : Display) : (s.setDisplay d).delayTimer = s.delayTimer := rfl
@[simp] theorem State.setDisplay_soundTimer (d : Display) : (s.setDisplay d).soundTimer = s.soundTimer := rfl
@[simp] theorem State.setDisplay_display (d : Display) : (s.setDisplay d).display = d := rfl
@[simp] theorem State.setDisplay_keypad (d : Display) : (s.setDisplay d).keypad = s.keypad := rfl
@[simp] theorem State.setDisplay_drawFlag (d : Display) : (s.setDisplay d).drawFlag = s.drawFlag := rfl
@[simp] theorem State.setDisplay_memory (d : Display) : (s.setDisplay d).memory = s.memory := rfl
@[simp] theorem State.setDisplay_font (d : Display) : (s.setDisplay d).font = s.font := rfl
@[simp] theorem State.setDisplay_rndCount (d : Display) : (s.setDisplay d).rndCount = s.rndCount := rfl
@[simp] theorem State.setDisplay_schedule (d : Display) : (s.setDisplay d).schedule = s.schedule := rfl
@[simp] theorem State.setDisplay_reg (d : Display) (r : Reg) : (s.setDisplay d).reg r = s.reg r := rfl
@[simp] theorem State.setDisplay_keyDown (d : Display) (j : Key) : (s.setDisplay d).keyDown j = s.keyDown j := rfl

/-! push -/

@[simp] theorem State.push_V (v : Word) (h : s.sp.val < 16) : (s.push v h).V = s.V := rfl
@[simp] theorem State.push_I (v : Word) (h : s.sp.val < 16) : (s.push v h).I = s.I := rfl
@[simp] theorem State.push_pc (v : Word) (h : s.sp.val < 16) : (s.push v h).pc = s.pc := rfl
@[simp] theorem State.push_stack (v : Word) (h : s.sp.val < 16) : (s.push v h).stack = s.stack.set s.sp.val v h := rfl
@[simp] theorem State.push_sp (v : Word) (h : s.sp.val < 16) : (s.push v h).sp = ⟨s.sp.val + 1, by omega⟩ := rfl
@[simp] theorem State.push_delayTimer (v : Word) (h : s.sp.val < 16) : (s.push v h).delayTimer = s.delayTimer := rfl
@[simp] theorem State.push_soundTimer (v : Word) (h : s.sp.val < 16) : (s.push v h).soundTimer = s.soundTimer := rfl
@[simp] theorem State.push_display (v : Word) (h : s.sp.val < 16) : (s.push v h).display = s.display := rfl
@[simp] theorem State.push_keypad (v : Word) (h : s.sp.val < 16) : (s.push v h).keypad = s.keypad := rfl
@[simp] theorem State.push_drawFlag (v : Word) (h : s.sp.val < 16) : (s.push v h).drawFlag = s.drawFlag := rfl
@[simp] theorem State.push_memory (v : Word) (h : s.sp.val < 16) : (s.push v h).memory = s.memory := rfl
@[simp] theorem State.push_font (v : Word) (h : s.sp.val < 16) : (s.push v h).font = s.font := rfl
@[simp] theorem State.push_rndCount (v : Word) (h : s.sp.val < 16) : (s.push v h).rndCount = s.rndCount := rfl
@[simp] theorem State.push_schedule (v : Word) (h : s.sp.val < 16) : (s.push v h).schedule = s.schedule := rfl
@[simp] theorem State.push_reg (v : Word) (h : s.sp.val < 16) (r : Reg) : (s.push v h).reg r = s.reg r := rfl
@[simp] theorem State.push_keyDown (v : Word) (h : s.sp.val < 16) (j : Key) : (s.push v h).keyDown j = s.keyDown j := rfl

/-! pop -/

@[simp] theorem State.pop_V : (s.pop).V = s.V := rfl
@[simp] theorem State.pop_I : (s.pop).I = s.I := rfl
@[simp] theorem State.pop_pc : (s.pop).pc = s.pc := rfl
@[simp] theorem State.pop_stack : (s.pop).stack = s.stack := rfl
@[simp] theorem State.pop_sp : (s.pop).sp = ⟨s.sp.val - 1, by omega⟩ := rfl
@[simp] theorem State.pop_delayTimer : (s.pop).delayTimer = s.delayTimer := rfl
@[simp] theorem State.pop_soundTimer : (s.pop).soundTimer = s.soundTimer := rfl
@[simp] theorem State.pop_display : (s.pop).display = s.display := rfl
@[simp] theorem State.pop_keypad : (s.pop).keypad = s.keypad := rfl
@[simp] theorem State.pop_drawFlag : (s.pop).drawFlag = s.drawFlag := rfl
@[simp] theorem State.pop_memory : (s.pop).memory = s.memory := rfl
@[simp] theorem State.pop_font : (s.pop).font = s.font := rfl
@[simp] theorem State.pop_rndCount : (s.pop).rndCount = s.rndCount := rfl
@[simp] theorem State.pop_schedule : (s.pop).schedule = s.schedule := rfl
@[simp] theorem State.pop_reg (r : Reg) : (s.pop).reg r = s.reg r := rfl
@[simp] theorem State.pop_keyDown (j : Key) : (s.pop).keyDown j = s.keyDown j := rfl

/-! setKey -/

@[simp] theorem State.setKey_V (k : Key) (b : Bool) : (s.setKey k b).V = s.V := rfl
@[simp] theorem State.setKey_I (k : Key) (b : Bool) : (s.setKey k b).I = s.I := rfl
@[simp] theorem State.setKey_pc (k : Key) (b : Bool) : (s.setKey k b).pc = s.pc := rfl
@[simp] theorem State.setKey_stack (k : Key) (b : Bool) : (s.setKey k b).stack = s.stack := rfl
@[simp] theorem State.setKey_sp (k : Key) (b : Bool) : (s.setKey k b).sp = s.sp := rfl
@[simp] theorem State.setKey_delayTimer (k : Key) (b : Bool) : (s.setKey k b).delayTimer = s.delayTimer := rfl
@[simp] theorem State.setKey_soundTimer (k : Key) (b : Bool) : (s.setKey k b).soundTimer = s.soundTimer := rfl
@[simp] theorem State.setKey_display (k : Key) (b : Bool) : (s.setKey k b).display = s.display := rfl
@[simp] theorem State.setKey_keypad (k : Key) (b : Bool) : (s.setKey k b).keypad = s.keypad.set k.val b := rfl
@[simp] theorem State.setKey_drawFlag (k : Key) (b : Bool) : (s.setKey k b).drawFlag = s.drawFlag := rfl
@[simp] theorem State.setKey_memory (k : Key) (b : Bool) : (s.setKey k b).memory = s.memory := rfl
@[simp] theorem State.setKey_font (k : Key) (b : Bool) : (s.setKey k b).font = s.font := rfl
@[simp] theorem State.setKey_rndCount (k : Key) (b : Bool) : (s.setKey k b).rndCount = s.rndCount := rfl
@[simp] theorem State.setKey_schedule (k : Key) (b : Bool) : (s.setKey k b).schedule = s.schedule := rfl
@[simp] theorem State.setKey_reg (k : Key) (b : Bool) (r : Reg) : (s.setKey k b).reg r = s.reg r := rfl

/-! drawn -/

@[simp] theorem State.drawn_V : (s.drawn).V = s.V := rfl
@[simp] theorem State.drawn_I : (s.drawn).I = s.I := rfl
@[simp] theorem State.drawn_pc : (s.drawn).pc = s.pc := rfl
@[simp] theorem State.drawn_stack : (s.drawn).stack = s.stack := rfl
@[simp] theorem State.drawn_sp : (s.drawn).sp = s.sp := rfl
@[simp] theorem State.drawn_delayTimer : (s.drawn).delayTimer = s.delayTimer := rfl
@[simp] theorem State.drawn_soundTimer : (s.drawn).soundTimer = s.soundTimer := rfl
@[simp] theorem State.drawn_display : (s.drawn).display = s.display := rfl
@[simp] theorem State.drawn_keypad : (s.drawn).keypad = s.keypad := rfl
@[simp] theorem State.drawn_drawFlag : (s.drawn).drawFlag = s.drawFlag := rfl
@[simp] theorem State.drawn_memory : (s.drawn).memory = s.memory := rfl
@[simp] theorem State.drawn_font : (s.drawn).font = s.font := rfl
@[simp] theorem State.drawn_rndCount : (s.drawn).rndCount = s.rndCount + 1 := rfl
@[simp] theorem State.drawn_schedule : (s.drawn).schedule = s.schedule := rfl
@[simp] theorem State.drawn_reg (r : Reg) : (s.drawn).reg r = s.reg r := rfl
@[simp] theorem State.drawn_keyDown (j : Key) : (s.drawn).keyDown j = s.keyDown j := rfl

/-! scheduled -/

@[simp] theorem State.scheduled_V : (s.scheduled).V = s.V := rfl
@[simp] theorem State.scheduled_I : (s.scheduled).I = s.I := rfl
@[simp] theorem State.scheduled_pc : (s.scheduled).pc = s.pc := rfl
@[simp] theorem State.scheduled_stack : (s.scheduled).stack = s.stack := rfl
@[simp] theorem State.scheduled_sp : (s.scheduled).sp = s.sp := rfl
@[simp] theorem State.scheduled_delayTimer : (s.scheduled).delayTimer = s.delayTimer := rfl
@[simp] theorem State.scheduled_soundTimer : (s.scheduled).soundTimer = s.soundTimer := rfl
@[simp] theorem State.scheduled_display : (s.scheduled).display = s.display := rfl
@[simp] theorem State.scheduled_keypad : (s.scheduled).keypad = s.keypad := rfl
@[simp] theorem State.scheduled_drawFlag : (s.scheduled).drawFlag = s.drawFlag := rfl
@[simp] theorem State.scheduled_memory : (s.scheduled).memory = s.memory := rfl
@[simp] theorem State.scheduled_font : (s.scheduled).font = s.font := rfl
@[simp] theorem State.scheduled_rndCount : (s.scheduled).rndCount = s.rndCount := rfl
@[simp] theorem State.scheduled_schedule : (s.scheduled).schedule = s.schedule.tail := rfl
@[simp] theorem State.scheduled_reg (r : Reg) : (s.scheduled).reg r = s.reg r := rfl
@[simp] theorem State.scheduled_keyDown (j : Key) : (s.scheduled).keyDown j = s.keyDown j := rfl

end Sys2Proof.Machine
end

