-- ==== Sys2Proof/Laws/Ops.lean ====
section
/-! SUPPORT. What each shared operation over registers, stack, keypad, pc and schedule does, said once. -/

namespace Sys2Proof.Machine

variable (s : State)

/-! ## General registers -/

@[simp] theorem State.reg_setReg (x r : Reg) (v : Byte) :
    (s.setReg x v).reg r = if r = x then v else s.reg r := by
  simp only [State.reg, State.setReg, Vector.getElem_set]
  by_cases h : r = x
  · subst h; simp
  · rw [if_neg h, if_neg fun hv => h (Fin.ext hv.symm)]

@[simp] theorem State.reg_setRegThenFlag (x r : Reg) (v : Byte) (b : Bool) :
    (s.setRegThenFlag x v b).reg r =
      if r = .vF then flagByte b else if r = x then v else s.reg r := by
  simp [State.setRegThenFlag]

@[simp] theorem State.setRegThenFlag_I (x : Reg) (v : Byte) (b : Bool) :
    (s.setRegThenFlag x v b).I = s.I := rfl
@[simp] theorem State.setRegThenFlag_pc (x : Reg) (v : Byte) (b : Bool) :
    (s.setRegThenFlag x v b).pc = s.pc := rfl
@[simp] theorem State.setRegThenFlag_stack (x : Reg) (v : Byte) (b : Bool) :
    (s.setRegThenFlag x v b).stack = s.stack := rfl
@[simp] theorem State.setRegThenFlag_sp (x : Reg) (v : Byte) (b : Bool) :
    (s.setRegThenFlag x v b).sp = s.sp := rfl
@[simp] theorem State.setRegThenFlag_delayTimer (x : Reg) (v : Byte) (b : Bool) :
    (s.setRegThenFlag x v b).delayTimer = s.delayTimer := rfl
@[simp] theorem State.setRegThenFlag_soundTimer (x : Reg) (v : Byte) (b : Bool) :
    (s.setRegThenFlag x v b).soundTimer = s.soundTimer := rfl
@[simp] theorem State.setRegThenFlag_display (x : Reg) (v : Byte) (b : Bool) :
    (s.setRegThenFlag x v b).display = s.display := rfl
@[simp] theorem State.setRegThenFlag_keypad (x : Reg) (v : Byte) (b : Bool) :
    (s.setRegThenFlag x v b).keypad = s.keypad := rfl
@[simp] theorem State.setRegThenFlag_drawFlag (x : Reg) (v : Byte) (b : Bool) :
    (s.setRegThenFlag x v b).drawFlag = s.drawFlag := rfl
@[simp] theorem State.setRegThenFlag_memory (x : Reg) (v : Byte) (b : Bool) :
    (s.setRegThenFlag x v b).memory = s.memory := rfl
@[simp] theorem State.setRegThenFlag_font (x : Reg) (v : Byte) (b : Bool) :
    (s.setRegThenFlag x v b).font = s.font := rfl
@[simp] theorem State.setRegThenFlag_rndCount (x : Reg) (v : Byte) (b : Bool) :
    (s.setRegThenFlag x v b).rndCount = s.rndCount := rfl
@[simp] theorem State.setRegThenFlag_schedule (x : Reg) (v : Byte) (b : Bool) :
    (s.setRegThenFlag x v b).schedule = s.schedule := rfl

/-- The flag is always 0 or 1 (R22). -/
theorem flagByte_zero_or_one (b : Bool) : flagByte b = 0 ∨ flagByte b = 1 := by
  cases b <;> simp [flagByte]

/-- A run of register loads reads as the last write to each register and touches nothing else: it
agrees with its start on every element but V, and with `f` on the registers below the count. -/
theorem foldl_setReg (f : Nat → Byte) (n : Nat) (hn : n ≤ 16) (r : Reg) :
    ((List.range n).foldl (fun t k => t.setReg (Fin.ofNat 16 k) (f k)) s).reg r =
      if r.val < n then f r.val else s.reg r := by
  induction n with
  | zero => simp
  | succ n ih =>
    rw [List.range_succ, List.foldl_append]
    simp only [List.foldl_cons, List.foldl_nil, State.reg_setReg, ih (by omega)]
    have hv : (Fin.ofNat 16 n).val = n := Nat.mod_eq_of_lt (by omega)
    by_cases h : r.val = n
    · simp [← h]
    · have hne : r ≠ Fin.ofNat 16 n := fun e => h (by rw [e, hv])
      simp only [hne, if_false, show (r.val < n + 1) = (r.val < n) from propext (by omega)]

/-- A run of register loads changes V alone. -/
theorem foldl_setReg_eq (f : Nat → Byte) (ks : List Nat) :
    ∃ V, ks.foldl (fun t k => t.setReg (Fin.ofNat 16 k) (f k)) s = { s with V := V } := by
  induction ks generalizing s with
  | nil => exact ⟨s.V, rfl⟩
  | cons k ks ih =>
    obtain ⟨V, h⟩ := ih (s.setReg (Fin.ofNat 16 k) (f k))
    exact ⟨V, by rw [List.foldl_cons, h]; rfl⟩

/-- `Fx65`'s loads: V0 to Vx from the run at I, the registers above x unchanged (R146). -/
theorem State.loadRun_reg (x r : Reg) :
    (s.loadRun x).reg r = if r ≤ x then s.memory.read (ea s.I r.val) else s.reg r := by
  rw [State.loadRun, foldl_setReg s (fun k => s.memory.read (ea s.I k)) (x.val + 1) (by omega) r]
  simp only [Fin.le_def, Nat.lt_succ_iff]

/-- `Fx65`'s loads change V alone. -/
theorem State.loadRun_eq (x : Reg) : ∃ V, s.loadRun x = { s with V := V } :=
  foldl_setReg_eq s (fun k => s.memory.read (ea s.I k)) _

/-- The k-th byte of the run of V0 to Vx is V[k]. -/
theorem State.regRun_getElem? (x : Reg) (k : Nat) (hk : k ≤ x.val) :
    (s.regRun x)[k]? = some (s.reg (Fin.ofNat 16 k)) := by
  simp [State.regRun, Nat.lt_succ_of_le hk]

@[simp] theorem State.regRun_length (x : Reg) : (s.regRun x).length = x.val + 1 := by
  simp [State.regRun]

/-! ## Keypad -/

@[simp] theorem State.keyDown_setKey (k j : Key) (b : Bool) :
    (s.setKey k b).keyDown j = if j = k then b else s.keyDown j := by
  simp only [State.keyDown, State.setKey, Vector.getElem_set]
  by_cases h : j = k
  · subst h; simp
  · rw [if_neg h, if_neg fun hv => h (Fin.ext hv.symm)]

/-- No key is found exactly when every latch is 0 (R163). -/
theorem State.lowestKey_none : s.lowestKey = none ↔ ∀ k, s.keyDown k = false := by
  simp [State.lowestKey, List.find?_eq_none]

/-- The lowest-first choice: key k is found when it is down and no lower one is (R163, D6). -/
theorem State.lowestKey_some (k : Key) :
    s.lowestKey = some k ↔ s.keyDown k = true ∧ ∀ j < k, s.keyDown j = false := by
  rw [State.lowestKey, List.find?_eq_some_iff_getElem]
  simp only [List.getElem_finRange, List.length_finRange]
  constructor
  · rintro ⟨hk, i, hi, rfl, hlow⟩
    refine ⟨hk, fun j hj => ?_⟩
    have := hlow j.val (by simpa [Fin.lt_def] using hj)
    simpa using this
  · rintro ⟨hk, hlow⟩
    exact ⟨hk, k.val, k.isLt, by simp, fun j hj => by simpa using hlow ⟨j, by omega⟩ (by simpa [Fin.lt_def] using hj)⟩

/-! ## Return stack -/

/-- The entry just pushed is the most recent one (R26). -/
theorem State.top_push (v : Word) (h : s.sp.val < 16) :
    (s.push v h).top = v := by
  simp [State.top]

/-- A pop after a push leaves the depth as it was (R26). -/
theorem State.sp_pop_push (v : Word) (h : s.sp.val < 16) : (s.push v h).pop.sp = s.sp :=
  Fin.ext (by simp)

/-! ## The schedule -/

/-- After `cycleNext` the next transition is a CYCLE. -/
@[simp] theorem State.cycleNext_nextTransition : s.cycleNext.nextTransition = .cycle := by
  unfold State.cycleNext
  split <;> simp_all [State.nextTransition]

end Sys2Proof.Machine
end

