-- ==== Sys2Proof/Laws/Cycle.lean ====
section
/-! SUPPORT. What a CYCLE and a transition can answer, said once: inversions that proofs about every
step cite instead of unfolding `cycle`, `exec` or `perform`. -/

namespace Sys2Proof.Machine

variable {s t : State}

/-! ## CYCLE (R74) -/

/-- A fetch succeeds exactly when pc is at most 0xFFE (R54). -/
theorem State.fetch_eq_none : s.fetch = none ↔ s.pc > Config.lastFetch := by
  unfold State.fetch
  split <;> simp_all

/-- A CYCLE that goes on fetched a word, decoded it and executed the instruction. -/
theorem cycle_next (h : cycle s = .next t) :
    ∃ op i, s.fetch = some op ∧ decodeWord op = some i ∧ exec i s = .next t := by
  unfold cycle at h
  split at h
  · exact absurd h (by simp [raise])
  · split at h
    · exact absurd h (by simp [raise])
    · exact ⟨_, _, ‹_›, ‹_›, h⟩

/-- With a decodable word at pc a CYCLE is that instruction's meaning. -/
theorem cycle_eq_exec {op : Word} {i : Instr} (hf : s.fetch = some op) (hd : decodeWord op = some i) :
    cycle s = exec i s := by
  simp [cycle, hf, hd]

/-- A CYCLE that goes on began with pc at most 0xFFE. -/
theorem pc_le_of_cycle_next (h : cycle s = .next t) : s.pc ≤ Config.lastFetch := by
  obtain ⟨op, _, hf, _⟩ := cycle_next h
  by_contra hc
  rw [State.fetch_eq_none.2 (by simpa using hc)] at hf
  cases hf

/-! ## The instructions with more than one outcome -/

/-- RET goes on exactly with a non-empty stack (R101). -/
theorem execRet_next (h : execRet s = .next t) :
    s.sp ≠ 0 ∧ t = s.pop.setPc s.top := by
  unfold execRet at h
  split at h
  · exact absurd h (by simp [raise])
  · exact ⟨‹_›, by injection h with h; exact h.symm⟩

/-- CALL goes on exactly with a stack that is not full (R103). -/
theorem execCall_next {nnn : Addr} (h : execCall nnn s = .next t) :
    ∃ h0 : s.sp.val < 16, t = (s.push (s.pc + 2) h0).setPc (zextAddr nnn) := by
  unfold execCall at h
  split at h
  · exact ⟨‹_›, by injection h with h; exact h.symm⟩
  · exact absurd h (by simp [raise])

/-- The key wait waits, changing nothing, or loads the least set key (R163). -/
theorem execLdVxK_next {x : Reg} (h : execLdVxK x s = .next t) :
    (s.lowestKey = none ∧ t = s) ∨
      ∃ k, s.lowestKey = some k ∧ t = (s.setReg x (BitVec.ofNat 8 k.val)).advance := by
  unfold execLdVxK at h
  split at h
  · exact .inl ⟨‹_›, by injection h with h; exact h.symm⟩
  · exact .inr ⟨_, ‹_›, by injection h with h; exact h.symm⟩

/-! ## LOAD (R203) -/

/-- LOAD goes on exactly when the program fits, and then writes memory alone. -/
theorem loadProgram_next {bs : List Byte} (h : loadProgram bs s = .next t) :
    bs.length ≤ Config.progMax ∧ t = s.setMemory (s.memory.storeRun Config.progBase 0 bs) := by
  unfold loadProgram at h
  split at h
  · exact absurd h (by simp [raise])
  · exact ⟨by omega, by injection h with h; exact h.symm⟩

/-! ## RESET (R200) -/

@[simp] theorem resetMachine_pc : (resetMachine s).pc = 0x0200 := rfl
@[simp] theorem resetMachine_I : (resetMachine s).I = 0 := rfl
@[simp] theorem resetMachine_sp : (resetMachine s).sp = 0 := rfl
@[simp] theorem resetMachine_V : (resetMachine s).V = Vector.replicate 16 0 := rfl
@[simp] theorem resetMachine_stack : (resetMachine s).stack = Vector.replicate 16 0 := rfl
@[simp] theorem resetMachine_display : (resetMachine s).display = Display.blank := rfl
@[simp] theorem resetMachine_keypad : (resetMachine s).keypad = Vector.replicate 16 false := rfl
@[simp] theorem resetMachine_delayTimer : (resetMachine s).delayTimer = 0 := rfl
@[simp] theorem resetMachine_soundTimer : (resetMachine s).soundTimer = 0 := rfl
@[simp] theorem resetMachine_drawFlag : (resetMachine s).drawFlag = false := rfl
@[simp] theorem resetMachine_font : (resetMachine s).font = s.font := rfl
@[simp] theorem resetMachine_rndCount : (resetMachine s).rndCount = s.rndCount := rfl
@[simp] theorem resetMachine_schedule : (resetMachine s).schedule = s.schedule := rfl

theorem resetMachine_memory : (resetMachine s).memory = s.memory.storeRun 0 0 s.font.toList := by
  rw [resetMachine]

/-- RESET keeps the canonical form of memory. -/
theorem resetMachine_wf (hm : s.memory.wf) : (resetMachine s).memory.wf := by
  rw [resetMachine_memory]
  exact Memory.storeRun_wf s.memory 0 0 s.font.toList hm

/-- After RESET the low 80 bytes read as FONT, every other byte as before. -/
theorem resetMachine_read (hm : s.memory.wf) (a : Addr) :
    (resetMachine s).memory.read a = if h : a.toNat < 80 then s.font[a.toNat] else s.memory.read a := by
  rw [resetMachine_memory]
  have ha : ea 0 (0 + a.toNat) = a := by simp [ea]
  split
  · have h := Memory.read_storeRun_inside s.memory 0 0 s.font.toList a.toNat hm (by simp) (by simpa)
    rw [ha] at h
    simpa using h
  · refine Memory.read_storeRun_outside s.memory 0 0 s.font.toList a hm fun j hj e => ?_
    have h := congrArg BitVec.toNat e
    simp [ea] at h hj
    omega

/-! ## Power-on (R202) -/

variable (font : Vector Byte 80) (memInit : Vector Byte 4016)

/-- MEM_INIT stored into an empty memory: it reads at 0x050 and above. -/
theorem memInit_read (a : Addr) (ha : 80 ≤ a.toNat) :
    (Memory.storeRun [] 0x050 0 memInit.toList).read a = memInit[a.toNat - 80]'(by omega) := by
  have h := Memory.read_storeRun_inside [] 0x050 0 memInit.toList (a.toNat - 80) Memory.wf_nil
    (by simp) (by simp; omega)
  have he : ea 0x050 (0 + (a.toNat - 80)) = a :=
    BitVec.eq_of_toNat_eq (by simp [ea]; omega)
  rw [he] at h
  simpa using h

/-- The canonical form of memory holds after power-on. -/
theorem State.powerOn_wf : (State.powerOn font memInit).memory.wf := by
  rw [State.powerOn]
  exact resetMachine_wf (Memory.storeRun_wf [] 0x050 0 memInit.toList Memory.wf_nil)

/-- After power-on memory holds FONT, then MEM_INIT. -/
theorem State.powerOn_read (a : Addr) :
    (State.powerOn font memInit).memory.read a =
      if h : a.toNat < 80 then font[a.toNat] else memInit[a.toNat - 80]'(by omega) := by
  rw [State.powerOn, resetMachine_read (Memory.storeRun_wf [] 0x050 0 memInit.toList Memory.wf_nil)]
  split
  · rfl
  · exact memInit_read memInit a (by omega)

/-! ## One step -/

/-- With a CYCLE next, a step is a CYCLE on the state with the schedule advanced. -/
theorem step_of_cycle_next (h : s.nextTransition = .cycle) : step s = cycle s.scheduled := by
  simp [step, h, perform]

end Sys2Proof.Machine
end

