-- ==== Sys2Proof/Laws/Decode.lean ====
section
/-! SUPPORT. The fields of a word and the words of the encoder's formats as numbers (spec
30_encoding.md R71, R72), and the fields of each format read back: the small lemmas that proofs about
decoding cite instead of unfolding bits. -/

namespace Sys2Proof

/-! ## Fields and formats as numbers -/

theorem toNat_append_lt {v w : Nat} (a : BitVec v) (b : BitVec w) :
    (a ++ b).toNat = a.toNat * 2 ^ w + b.toNat := by
  rw [BitVec.toNat_append, ← Nat.shiftLeft_add_eq_or_of_lt b.isLt, Nat.shiftLeft_eq]

theorem toNat_fieldH (op : Word) : (fieldH op).toNat = op.toNat / 4096 := by
  have := op.isLt
  simp only [fieldH, BitVec.extractLsb'_toNat, Nat.shiftRight_eq_div_pow]
  omega

theorem val_fieldX (op : Word) : (fieldX op).val = op.toNat / 256 % 16 := by
  simp [fieldX, Nat.shiftRight_eq_div_pow]

theorem val_fieldY (op : Word) : (fieldY op).val = op.toNat / 16 % 16 := by
  simp [fieldY, Nat.shiftRight_eq_div_pow]

theorem toNat_fieldN (op : Word) : (fieldN op).toNat = op.toNat % 16 := by
  simp [fieldN]

theorem toNat_fieldKK (op : Word) : (fieldKK op).toNat = op.toNat % 256 := by
  simp [fieldKK]

theorem toNat_fieldNNN (op : Word) : (fieldNNN op).toNat = op.toNat % 4096 := by
  simp [fieldNNN]

@[simp] theorem toNat_regBits (x : Reg) : (regBits x).toNat = x.val := rfl

theorem toNat_encADDR (h : Nibble) (nnn : Addr) :
    (encADDR h nnn).toNat = h.toNat * 4096 + nnn.toNat :=
  toNat_append_lt h nnn

theorem toNat_encXKK (h : Nibble) (x : Reg) (kk : Byte) :
    (encXKK h x kk).toNat = h.toNat * 4096 + x.val * 256 + kk.toNat := by
  have h1 := toNat_append_lt (h ++ regBits x) kk
  have h2 := toNat_append_lt h (regBits x)
  rw [h2, toNat_regBits] at h1
  refine Eq.trans h1 ?_
  omega

theorem toNat_encXYN (h : Nibble) (x y : Reg) (n : Nibble) :
    (encXYN h x y n).toNat = h.toNat * 4096 + x.val * 256 + y.val * 16 + n.toNat := by
  have h1 := toNat_append_lt (h ++ regBits x ++ regBits y) n
  have h2 := toNat_append_lt (h ++ regBits x) (regBits y)
  have h3 := toNat_append_lt h (regBits x)
  rw [h2, h3, toNat_regBits, toNat_regBits] at h1
  refine Eq.trans h1 ?_
  omega

/-- Formats XS and XKK have the same bits. -/
theorem encXS_eq (h : Nibble) (x : Reg) (sec : Byte) : encXS h x sec = encXKK h x sec := rfl

/-! ## The fields of each format -/

@[simp] theorem fieldH_encADDR (h : Nibble) (nnn : Addr) : fieldH (encADDR h nnn) = h := by
  apply BitVec.eq_of_toNat_eq
  have := nnn.isLt
  rw [toNat_fieldH, toNat_encADDR]
  omega

@[simp] theorem fieldNNN_encADDR (h : Nibble) (nnn : Addr) : fieldNNN (encADDR h nnn) = nnn := by
  apply BitVec.eq_of_toNat_eq
  have := nnn.isLt
  rw [toNat_fieldNNN, toNat_encADDR]
  omega

@[simp] theorem fieldH_encXKK (h : Nibble) (x : Reg) (kk : Byte) : fieldH (encXKK h x kk) = h := by
  apply BitVec.eq_of_toNat_eq
  have := kk.isLt
  rw [toNat_fieldH, toNat_encXKK]
  omega

@[simp] theorem fieldX_encXKK (h : Nibble) (x : Reg) (kk : Byte) : fieldX (encXKK h x kk) = x := by
  apply Fin.ext
  have := kk.isLt
  rw [val_fieldX, toNat_encXKK]
  omega

@[simp] theorem fieldKK_encXKK (h : Nibble) (x : Reg) (kk : Byte) : fieldKK (encXKK h x kk) = kk := by
  apply BitVec.eq_of_toNat_eq
  have := kk.isLt
  rw [toNat_fieldKK, toNat_encXKK]
  omega

@[simp] theorem fieldH_encXYN (h : Nibble) (x y : Reg) (n : Nibble) : fieldH (encXYN h x y n) = h := by
  apply BitVec.eq_of_toNat_eq
  have := n.isLt
  rw [toNat_fieldH, toNat_encXYN]
  omega

@[simp] theorem fieldX_encXYN (h : Nibble) (x y : Reg) (n : Nibble) : fieldX (encXYN h x y n) = x := by
  apply Fin.ext
  have := n.isLt
  rw [val_fieldX, toNat_encXYN]
  omega

@[simp] theorem fieldY_encXYN (h : Nibble) (x y : Reg) (n : Nibble) : fieldY (encXYN h x y n) = y := by
  apply Fin.ext
  have := n.isLt
  rw [val_fieldY, toNat_encXYN]
  omega

@[simp] theorem fieldN_encXYN (h : Nibble) (x y : Reg) (n : Nibble) : fieldN (encXYN h x y n) = n := by
  apply BitVec.eq_of_toNat_eq
  have := n.isLt
  rw [toNat_fieldN, toNat_encXYN]
  omega

@[simp] theorem fieldH_encXS (h : Nibble) (x : Reg) (b : Byte) : fieldH (encXS h x b) = h :=
  fieldH_encXKK h x b

@[simp] theorem fieldX_encXS (h : Nibble) (x : Reg) (b : Byte) : fieldX (encXS h x b) = x :=
  fieldX_encXKK h x b

@[simp] theorem fieldKK_encXS (h : Nibble) (x : Reg) (b : Byte) : fieldKK (encXS h x b) = b :=
  fieldKK_encXKK h x b

/-- A word's two bytes, put together big-endian, are the word (R70). -/
@[simp] theorem wordOfBytes_split (op : Word) : wordOfBytes (highByte op) (lowByte op) = op := by
  apply BitVec.eq_of_toNat_eq
  have := op.isLt
  refine Eq.trans (toNat_append_lt (highByte op) (lowByte op)) ?_
  simp only [highByte, lowByte, BitVec.extractLsb'_toNat, Nat.shiftRight_eq_div_pow]
  omega

/-- The decoder of bytes on two bytes and a rest (R70, R82). -/
theorem decode_cons (hi lo : Byte) (rest : List Byte) :
    decode (hi :: lo :: rest) =
      match decodeWord (wordOfBytes hi lo) with
      | some i => .instr i rest
      | none => .unknownOpcode (wordOfBytes hi lo) := rfl

/-- A row of the opcode table, on a word of table bits, is decoded as the word is. -/
theorem decodeTableWord_eq (w : Nat) :
    decodeTableWord 16 w = decodeWord (BitVec.ofNat 16 (w % 65536)) := by
  simp only [decodeTableWord, decode_cons, wordOfBytes_split]
  cases decodeWord (BitVec.ofNat 16 (w % 65536)) <;> rfl

end Sys2Proof
end

