-- ==== Sys2Proof/Laws/PerInstr.lean ====
section
/-! SUPPORT. The statements made of every instruction as syntax, one lemma per constructor (LAWS.json). -/

namespace Sys2Proof

/-! ## The formats under their masks (R74) -/

theorem encADDR_and (h : Nibble) (nnn : Addr) : encADDR h nnn &&& 0xF000 = encADDR h 0 := by
  refine Eq.trans (BitVec.and_append (x₁ := h) (y₁ := nnn) (x₂ := 0xF#4) (y₂ := 0x000#12)) ?_
  rw [show h &&& 0xF#4 = h from BitVec.and_allOnes, show nnn &&& 0x000#12 = 0 from BitVec.and_zero]
  rfl

theorem encXKK_and (h : Nibble) (x : Reg) (kk : Byte) : encXKK h x kk &&& 0xF000 = encADDR h 0 := by
  have e : encXKK h x kk = encADDR h (regBits x ++ kk) := by
    apply BitVec.eq_of_toNat_eq
    rw [toNat_encXKK, toNat_encADDR, show (regBits x ++ kk : Addr).toNat = x.val * 256 + kk.toNat from
      toNat_append_lt (regBits x) kk]
    omega
  rw [e, encADDR_and]

theorem encXS_and (h : Nibble) (x : Reg) (sec : Byte) : encXS h x sec &&& 0xF0FF = encXS h 0 sec := by
  refine Eq.trans (BitVec.and_append (x₁ := h ++ regBits x) (y₁ := sec) (x₂ := 0xF0#8) (y₂ := 0xFF#8)) ?_
  have e : (h ++ regBits x) &&& 0xF0#8 = h ++ 0x0#4 := by
    refine Eq.trans (BitVec.and_append (x₁ := h) (y₁ := regBits x) (x₂ := 0xF#4) (y₂ := 0x0#4)) ?_
    rw [show h &&& 0xF#4 = h from BitVec.and_allOnes, show regBits x &&& 0x0#4 = 0 from BitVec.and_zero]
    rfl
  rw [e, show sec &&& 0xFF#8 = sec from BitVec.and_allOnes]
  rfl

theorem encXYN_and (h : Nibble) (x y : Reg) (n : Nibble) :
    encXYN h x y n &&& 0xF00F = encXYN h 0 0 n := by
  refine Eq.trans (BitVec.and_append (x₁ := h ++ regBits x ++ regBits y) (y₁ := n) (x₂ := 0xF00#12) (y₂ := 0xF#4)) ?_
  have e : (h ++ regBits x ++ regBits y) &&& 0xF00#12 = h ++ 0x0#4 ++ 0x0#4 := by
    refine Eq.trans (BitVec.and_append (x₁ := h ++ regBits x) (y₁ := regBits y) (x₂ := 0xF0#8) (y₂ := 0x0#4)) ?_
    have e : (h ++ regBits x) &&& 0xF0#8 = h ++ 0x0#4 := by
      refine Eq.trans (BitVec.and_append (x₁ := h) (y₁ := regBits x) (x₂ := 0xF#4) (y₂ := 0x0#4)) ?_
      rw [show h &&& 0xF#4 = h from BitVec.and_allOnes, show regBits x &&& 0x0#4 = 0 from BitVec.and_zero]
      rfl
    rw [e, show regBits y &&& 0x0#4 = 0 from BitVec.and_zero]
    rfl
  rw [e, show n &&& 0xF#4 = n from BitVec.and_allOnes]
  rfl

theorem encXYN_and_high (h : Nibble) (x y : Reg) (n : Nibble) :
    encXYN h x y n &&& 0xF000 = encADDR h 0 := by
  have e : encXYN h x y n = encXKK h x (regBits y ++ n) := by
    apply BitVec.eq_of_toNat_eq
    rw [toNat_encXKK, toNat_encXYN, show (regBits y ++ n : Byte).toNat = y.val * 16 + n.toNat from
      toNat_append_lt (regBits y) n]
    omega
  rw [e, encXKK_and]

end Sys2Proof

namespace Sys2Proof.Laws.WordMatchesRow

/-- The word of an instruction matches the instruction's own row of R75, which is one of the table's. -/
def Statement (i : Instr) : Prop := (rowOf i).accepts (encode i) = true ∧ rowOf i ∈ opcodeTable

theorem cls : Statement .cls := ⟨by decide, by decide⟩

theorem ret : Statement .ret := ⟨by decide, by decide⟩

theorem jp (nnn : Addr) : Statement (.jp nnn) := 
  ⟨beq_iff_eq.2 (encADDR_and _ _), by simp [rowOf, opcodeTable]⟩

theorem call (nnn : Addr) : Statement (.call nnn) := 
  ⟨beq_iff_eq.2 (encADDR_and _ _), by simp [rowOf, opcodeTable]⟩

theorem se (x : Reg) (kk : Byte) : Statement (.se x kk) := 
  ⟨beq_iff_eq.2 (encXKK_and _ _ _), by simp [rowOf, opcodeTable]⟩

theorem sne (x : Reg) (kk : Byte) : Statement (.sne x kk) := 
  ⟨beq_iff_eq.2 (encXKK_and _ _ _), by simp [rowOf, opcodeTable]⟩

theorem seReg (x y : Reg) : Statement (.seReg x y) := 
  ⟨beq_iff_eq.2 (encXYN_and _ _ _ _), by simp [rowOf, opcodeTable]⟩

theorem ld (x : Reg) (kk : Byte) : Statement (.ld x kk) := 
  ⟨beq_iff_eq.2 (encXKK_and _ _ _), by simp [rowOf, opcodeTable]⟩

theorem add (x : Reg) (kk : Byte) : Statement (.add x kk) := 
  ⟨beq_iff_eq.2 (encXKK_and _ _ _), by simp [rowOf, opcodeTable]⟩

theorem ldReg (x y : Reg) : Statement (.ldReg x y) := 
  ⟨beq_iff_eq.2 (encXYN_and _ _ _ _), by simp [rowOf, opcodeTable]⟩

theorem or (x y : Reg) : Statement (.or x y) := 
  ⟨beq_iff_eq.2 (encXYN_and _ _ _ _), by simp [rowOf, opcodeTable]⟩

theorem and (x y : Reg) : Statement (.and x y) := 
  ⟨beq_iff_eq.2 (encXYN_and _ _ _ _), by simp [rowOf, opcodeTable]⟩

theorem xor (x y : Reg) : Statement (.xor x y) := 
  ⟨beq_iff_eq.2 (encXYN_and _ _ _ _), by simp [rowOf, opcodeTable]⟩

theorem addReg (x y : Reg) : Statement (.addReg x y) := 
  ⟨beq_iff_eq.2 (encXYN_and _ _ _ _), by simp [rowOf, opcodeTable]⟩

theorem sub (x y : Reg) : Statement (.sub x y) := 
  ⟨beq_iff_eq.2 (encXYN_and _ _ _ _), by simp [rowOf, opcodeTable]⟩

theorem shr (x y : Reg) : Statement (.shr x y) := 
  ⟨beq_iff_eq.2 (encXYN_and _ _ _ _), by simp [rowOf, opcodeTable]⟩

theorem subn (x y : Reg) : Statement (.subn x y) := 
  ⟨beq_iff_eq.2 (encXYN_and _ _ _ _), by simp [rowOf, opcodeTable]⟩

theorem shl (x y : Reg) : Statement (.shl x y) := 
  ⟨beq_iff_eq.2 (encXYN_and _ _ _ _), by simp [rowOf, opcodeTable]⟩

theorem sneReg (x y : Reg) : Statement (.sneReg x y) := 
  ⟨beq_iff_eq.2 (encXYN_and _ _ _ _), by simp [rowOf, opcodeTable]⟩

theorem ldI (nnn : Addr) : Statement (.ldI nnn) := 
  ⟨beq_iff_eq.2 (encADDR_and _ _), by simp [rowOf, opcodeTable]⟩

theorem jpV0 (nnn : Addr) : Statement (.jpV0 nnn) := 
  ⟨beq_iff_eq.2 (encADDR_and _ _), by simp [rowOf, opcodeTable]⟩

theorem rnd (x : Reg) (kk : Byte) : Statement (.rnd x kk) := 
  ⟨beq_iff_eq.2 (encXKK_and _ _ _), by simp [rowOf, opcodeTable]⟩

theorem drw (x y : Reg) (n : Nibble) : Statement (.drw x y n) := 
  ⟨beq_iff_eq.2 (encXYN_and_high _ _ _ _), by simp [rowOf, opcodeTable]⟩

theorem skp (x : Reg) : Statement (.skp x) := 
  ⟨beq_iff_eq.2 (encXS_and _ _ _), by simp [rowOf, opcodeTable]⟩

theorem sknp (x : Reg) : Statement (.sknp x) := 
  ⟨beq_iff_eq.2 (encXS_and _ _ _), by simp [rowOf, opcodeTable]⟩

theorem ldVxDT (x : Reg) : Statement (.ldVxDT x) := 
  ⟨beq_iff_eq.2 (encXS_and _ _ _), by simp [rowOf, opcodeTable]⟩

theorem ldVxK (x : Reg) : Statement (.ldVxK x) := 
  ⟨beq_iff_eq.2 (encXS_and _ _ _), by simp [rowOf, opcodeTable]⟩

theorem ldDTVx (x : Reg) : Statement (.ldDTVx x) := 
  ⟨beq_iff_eq.2 (encXS_and _ _ _), by simp [rowOf, opcodeTable]⟩

theorem ldSTVx (x : Reg) : Statement (.ldSTVx x) := 
  ⟨beq_iff_eq.2 (encXS_and _ _ _), by simp [rowOf, opcodeTable]⟩

theorem addIVx (x : Reg) : Statement (.addIVx x) := 
  ⟨beq_iff_eq.2 (encXS_and _ _ _), by simp [rowOf, opcodeTable]⟩

theorem ldFVx (x : Reg) : Statement (.ldFVx x) := 
  ⟨beq_iff_eq.2 (encXS_and _ _ _), by simp [rowOf, opcodeTable]⟩

theorem ldBVx (x : Reg) : Statement (.ldBVx x) := 
  ⟨beq_iff_eq.2 (encXS_and _ _ _), by simp [rowOf, opcodeTable]⟩

theorem ldMemVx (x : Reg) : Statement (.ldMemVx x) := 
  ⟨beq_iff_eq.2 (encXS_and _ _ _), by simp [rowOf, opcodeTable]⟩

theorem ldVxMem (x : Reg) : Statement (.ldVxMem x) := 
  ⟨beq_iff_eq.2 (encXS_and _ _ _), by simp [rowOf, opcodeTable]⟩

end Sys2Proof.Laws.WordMatchesRow
end

