-- ==== Sys2Proof/Tests/Slice0.lean ====
section
/-! SUPPORT. The model's own tests. Expected values are those of spec/95_test_vectors.md, named A<n> or
B<n>, or worked by hand from the rule named. After the tests, a witness for the hypotheses of each
obligation that has any. -/

namespace Sys2Proof.Tests

open Sys2Proof Sys2Proof.Machine

/-! ## Small states -/

/-- The state after reset with some registers set. -/
def regs (rs : List (Reg × Byte)) : State := rs.foldl (fun s p => s.setReg p.1 p.2) State.reset

/-- Bytes stored from an address up. -/
def bytesAt (s : State) (a : Word) (bs : List Byte) : State := s.setMemory (s.memory.storeRun a 0 bs)

/-- One CYCLE with a word placed at pc. -/
def run (s : State) (op : Word) : Host.Outcome State Fault Refusal := cycle (s.storeAtPc op)

/-- The outcome is a next state with a property. -/
def next (o : Host.Outcome State Fault Refusal) (p : State → Bool) : Bool :=
  match o with
  | .next t => p t
  | .fault _ => false
  | .refused _ => false

/-- The outcome is a given fault. -/
def faults (o : Host.Outcome State Fault Refusal) (f : Fault) : Bool :=
  match o with
  | .next _ => false
  | .fault g => g == f
  | .refused _ => false

/-- A stack of a given depth, every slot holding the same address. -/
def depth (d : Fin 17) (v : Word) : State := { State.reset with stack := Vector.replicate 16 v, sp := d }

/-- Some keys held down. -/
def keys (s : State) (ks : List Key) : State := ks.foldl (fun t k => t.setKey k true) s

/-- Some pixels lit. -/
def lit (s : State) (ps : List (Fin 32 × Fin 64)) : State :=
  s.setDisplay (ps.foldl (fun d p => d.toggle p.1 p.2) s.display)

/-- The pixels listed are all lit, those of the second list all unlit. -/
def shows (s : State) (on off : List (Fin 32 × Fin 64)) : Bool :=
  on.all (fun p => s.display.pixel p.1 p.2) && off.all (fun p => !s.display.pixel p.1 p.2)

/-! ## WellFormed: each check refuses (R73, R75, R80) -/

theorem test_wf_accepts : AsmLine.wellFormed ⟨.DRW, [.reg 15, .reg 0, .num 15]⟩ = true := by decide
theorem test_wf_register_number : AsmLine.wellFormed ⟨.LD, [.reg 16, .num 0]⟩ = false := by decide
theorem test_wf_second_register : AsmLine.wellFormed ⟨.SUB, [.reg 0, .reg 16]⟩ = false := by decide
theorem test_wf_address : AsmLine.wellFormed ⟨.CALL, [.num 4096]⟩ = false := by decide
theorem test_wf_byte : AsmLine.wellFormed ⟨.ADD, [.reg 0, .num 256]⟩ = false := by decide
theorem test_wf_nibble : AsmLine.wellFormed ⟨.DRW, [.reg 0, .reg 1, .num 16]⟩ = false := by decide
theorem test_wf_shape : AsmLine.wellFormed ⟨.RET, [.num 0]⟩ = false := by decide
theorem test_wf_jump_base : AsmLine.wellFormed ⟨.JP, [.reg 1, .num 0x300]⟩ = false := by decide
theorem test_wf_shift_operands : AsmLine.wellFormed ⟨.SHR, [.reg 1]⟩ = false := by decide

/-! ## Decode: words written out from R75's patterns and B1 -/

theorem test_decode_fix : decodeWord 0x00E0 = some .cls ∧ decodeWord 0x00EE = some .ret := by decide

theorem test_decode_addr :
    decodeWord 0x1ABC = some (.jp 0xABC) ∧ decodeWord 0x2FFF = some (.call 0xFFF) ∧
    decodeWord 0xA2F0 = some (.ldI 0x2F0) ∧ decodeWord 0xB123 = some (.jpV0 0x123) := by decide

theorem test_decode_xkk :
    decodeWord 0x3A12 = some (.se 0xA 0x12) ∧ decodeWord 0x432B = some (.sne 0x3 0x2B) ∧
    decodeWord 0x6A7F = some (.ld 0xA 0x7F) ∧ decodeWord 0x7205 = some (.add 0x2 0x05) ∧
    decodeWord 0xC30F = some (.rnd 0x3 0x0F) := by decide

theorem test_decode_xys :
    decodeWord 0x5120 = some (.seReg 1 2) ∧ decodeWord 0x9120 = some (.sneReg 1 2) ∧
    decodeWord 0x8AB0 = some (.ldReg 0xA 0xB) ∧ decodeWord 0x8AB1 = some (.or 0xA 0xB) ∧
    decodeWord 0x8AB2 = some (.and 0xA 0xB) ∧ decodeWord 0x8AB3 = some (.xor 0xA 0xB) ∧
    decodeWord 0x8AB4 = some (.addReg 0xA 0xB) ∧ decodeWord 0x8AB5 = some (.sub 0xA 0xB) ∧
    decodeWord 0x8AB6 = some (.shr 0xA 0xB) ∧ decodeWord 0x8AB7 = some (.subn 0xA 0xB) ∧
    decodeWord 0x8ABE = some (.shl 0xA 0xB) := by decide

theorem test_decode_xyn :
    decodeWord 0xD01F = some (.drw 0 1 15) ∧ decodeWord 0xD010 = some (.drw 0 1 0) := by decide

theorem test_decode_xs :
    decodeWord 0xE39E = some (.skp 3) ∧ decodeWord 0xE3A1 = some (.sknp 3) ∧
    decodeWord 0xF507 = some (.ldVxDT 5) ∧ decodeWord 0xFA0A = some (.ldVxK 0xA) ∧
    decodeWord 0xF515 = some (.ldDTVx 5) ∧ decodeWord 0xF118 = some (.ldSTVx 1) ∧
    decodeWord 0xF11E = some (.addIVx 1) ∧ decodeWord 0xF229 = some (.ldFVx 2) ∧
    decodeWord 0xF433 = some (.ldBVx 4) ∧ decodeWord 0xF255 = some (.ldMemVx 2) ∧
    decodeWord 0xF165 = some (.ldVxMem 1) := by decide

/-- The unknown words of B1. -/
theorem test_decode_unknown :
    [0x0000, 0x00E1, 0x01E0, 0x00FF, 0x0123, 0x5121, 0x512F, 0x8AB8, 0x8ABD, 0x8ABF, 0x9121].all
      (fun op => decodeWord op == none) ∧
    [0xE09F, 0xE0A0, 0xE19D, 0xF075, 0xF000, 0xF066, 0xFFFF].all (fun op => decodeWord op == none) := by
  decide

/-- High byte first, the bytes after the instruction untouched, too few bytes no word (R70). -/
theorem test_decode_bytes :
    decode [0x6A, 0x7F, 0x12] = .instr (.ld 0xA 0x7F) [0x12] ∧ decode [0xFF, 0xFF] = .unknownOpcode 0xFFFF ∧
    decode [0x6A] = .truncated := by decide

/-- The host's two entries: a table word decodes, and the next step runs it. -/
theorem test_table_word :
    decodeTableWord 16 0x6A7F = some (.ld 0xA 0x7F) ∧
    next (step (State.reset.withFetchWord 16 0x6A7F)) (fun t => t.reg 0xA == 0x7F && t.pc == 0x0202) := by
  decide

/-! ## Control flow (B2) -/

theorem test_jp : next (run State.reset 0x1ABC) (fun t => t.pc == 0x0ABC) := by decide  -- B2.1

/-- B2.3: a jump to 0xFFF is taken, the CYCLE after it faults. -/
theorem test_jp_then_pcOutOfRange :
    next (run State.reset 0x1FFF) (fun t => t.pc == 0x0FFF && faults (cycle t) (.pcOutOfRange 0x0FFF)) := by
  decide

theorem test_call_last_slot :  -- B2.5
    next (run ((depth 15 0).setPc 0x0ABC) 0x2200)
      (fun t => t.stack[15] == 0x0ABE && t.sp == 16 && t.pc == 0x0200) := by decide

theorem test_call_overflow :  -- B2.6
    faults (run ((depth 16 0).setPc 0x0ABC) 0x2200) (.stackOverflow 0x0ABC) := by decide

theorem test_ret :  -- B2.7: the slot keeps its value
    next (run ((depth 1 0x0202).setPc 0x0300) 0x00EE)
      (fun t => t.sp == 0 && t.pc == 0x0202 && t.stack[0] == 0x0202) := by decide

theorem test_ret_underflow :  -- B2.8
    faults (run (State.reset.setPc 0x0300) 0x00EE) (.stackUnderflow 0x0300) := by decide

theorem test_se_taken : next (run (regs [(3, 0x2A)]) 0x332A) (fun t => t.pc == 0x0204) := by decide  -- B2.9
theorem test_se_not_taken : next (run (regs [(3, 0x2A)]) 0x332B) (fun t => t.pc == 0x0202) := by decide  -- B2.10
theorem test_sne_not_taken : next (run (regs [(3, 0x2A)]) 0x432A) (fun t => t.pc == 0x0202) := by decide  -- B2.11
theorem test_sne_taken : next (run (regs [(3, 0x2A)]) 0x432B) (fun t => t.pc == 0x0204) := by decide  -- B2.12
theorem test_seReg_differ : next (run (regs [(1, 7), (2, 8)]) 0x5120) (fun t => t.pc == 0x0202) := by decide  -- B2.14
theorem test_seReg_same : next (run (regs [(3, 9)]) 0x5330) (fun t => t.pc == 0x0204) := by decide  -- B2.15
theorem test_sneReg_differ : next (run (regs [(1, 7), (2, 8)]) 0x9120) (fun t => t.pc == 0x0204) := by decide  -- B2.16
theorem test_sneReg_same : next (run (regs [(3, 9)]) 0x9330) (fun t => t.pc == 0x0202) := by decide  -- B2.18

theorem test_jpV0_beyond_memory :  -- B2.20
    next (run (regs [(0, 0xFF)]) 0xBFFF)
      (fun t => t.pc == 0x10FE && faults (cycle t) (.pcOutOfRange 0x10FE)) := by decide

theorem test_jpV0_uses_V0 :  -- B2.21
    next (run (regs [(3, 0x10)]) 0xB300) (fun t => t.pc == 0x0300) := by decide

/-! ## Register operations (B3) -/

theorem test_ld_odd_pc :  -- B2.24
    next (run (State.reset.setPc 0x0201) 0x6A7F) (fun t => t.reg 0xA == 0x7F && t.pc == 0x0203) := by decide

theorem test_ld_last_word :  -- B2.22: the last fetchable word runs, the next CYCLE faults
    next (run (State.reset.setPc 0x0FFE) 0x6001)
      (fun t => t.reg 0 == 0x01 && t.pc == 0x1000 && faults (cycle t) (.pcOutOfRange 0x1000)) := by decide

theorem test_add_no_flag :  -- B3.3
    next (run (regs [(2, 0xFE)]) 0x7205) (fun t => t.reg 2 == 0x03 && t.reg 15 == 0) := by decide

theorem test_add_minus_one : next (run (regs []) 0x72FF) (fun t => t.reg 2 == 0xFF) := by decide  -- B3.5
theorem test_ldReg : next (run (regs [(4, 0x33)]) 0x8140) (fun t => t.reg 1 == 0x33) := by decide  -- B3.6

theorem test_or :  -- B3.7
    next (run (regs [(1, 0xF0), (2, 0x0F), (15, 1)]) 0x8121) (fun t => t.reg 1 == 0xFF && t.reg 15 == 1) := by
  decide

theorem test_and :  -- B3.8
    next (run (regs [(1, 0xF0), (2, 0x3C), (15, 1)]) 0x8122) (fun t => t.reg 1 == 0x30 && t.reg 15 == 1) := by
  decide

theorem test_xor :  -- B3.9
    next (run (regs [(1, 0xF0), (2, 0x3C), (15, 1)]) 0x8123) (fun t => t.reg 1 == 0xCC && t.reg 15 == 1) := by
  decide

theorem test_addReg_carry :  -- A2
    next (run (regs [(0, 0xFF), (1, 0x01)]) 0x8014) (fun t => t.reg 0 == 0x00 && t.reg 15 == 1) := by decide

theorem test_addReg_into_VF :  -- the sum 0x03 is lost
    next (run (regs [(15, 0x01), (2, 0x02)]) 0x8F24) (fun t => t.reg 15 == 0) := by decide

theorem test_sub_equal :  -- 0x80 - 0x80: no borrow
    next (run (regs [(1, 0x80), (2, 0x80)]) 0x8125) (fun t => t.reg 1 == 0x00 && t.reg 15 == 1) := by decide

theorem test_sub_from_VF :  -- the old VF is the operand
    next (run (regs [(1, 0x00), (15, 0x01)]) 0x81F5) (fun t => t.reg 1 == 0xFF && t.reg 15 == 0) := by decide

theorem test_shr :  -- A4
    next (run (regs [(0, 0x81)]) 0x8006) (fun t => t.reg 0 == 0x40 && t.reg 15 == 1) := by decide

theorem test_shr_ignores_Vy :
    next (run (regs [(1, 0x02), (2, 0xFF)]) 0x8126)
      (fun t => t.reg 1 == 0x01 && t.reg 2 == 0xFF && t.reg 15 == 0) := by decide

theorem test_subn_borrow :
    next (run (regs [(1, 0x05), (2, 0x03)]) 0x8127) (fun t => t.reg 1 == 0xFE && t.reg 15 == 0) := by decide

theorem test_subn_into_VF : next (run (regs [(15, 0x03), (2, 0x05)]) 0x8F27) (fun t => t.reg 15 == 1) := by
  decide

theorem test_shl_ignores_Vy :
    next (run (regs [(1, 0x40), (2, 0xFF)]) 0x812E)
      (fun t => t.reg 1 == 0x80 && t.reg 2 == 0xFF && t.reg 15 == 0) := by decide

theorem test_shl_lost_bit :
    next (run (regs [(1, 0x81)]) 0x812E) (fun t => t.reg 1 == 0x02 && t.reg 15 == 1) := by decide

/-- B3.12: masked by 0, whatever the random byte is. -/
theorem test_rnd_masked_by_zero : ∃ t, exec (.rnd 3 0x00) State.reset = .next t ∧ t.V[3] = 0 :=
  ⟨_, rfl, by simp [State.advance, State.setPc, State.setReg]⟩

/-- B3.14: the random byte and the mask, for any value of the byte. -/
theorem test_rnd_masked : ∃ t, exec (.rnd 3 0xF0) State.reset = .next t ∧ t.V[3] = Config.rnd 0 &&& 0xF0 :=
  ⟨_, rfl, rfl⟩

/-! ## Index register and memory (B4) -/

theorem test_ldI : next (run State.reset 0xAFFF) (fun t => t.I == 0x0FFF) := by decide  -- B4.2

theorem test_addI_beyond_memory :  -- B4.4: 16 bits kept, no flag
    next (run ((regs [(1, 0x05)]).setI 0x0FFE) 0xF11E) (fun t => t.I == 0x1003 && t.reg 15 == 0) := by decide

theorem test_addI_wraps : next (run ((regs [(1, 0x01)]).setI 0xFFFF) 0xF11E) (fun t => t.I == 0x0000) := by
  decide  -- B4.5

theorem test_ldF : next (run (regs [(2, 0x0F)]) 0xF229) (fun t => t.I == 0x004B) := by decide  -- B4.8
theorem test_ldF_unmasked : next (run (regs [(2, 0xFF)]) 0xF229) (fun t => t.I == 0x04FB) := by decide  -- B4.10

theorem test_ldB :  -- B4.11
    next (run ((regs [(4, 0x9C)]).setI 0x0300) 0xF433)
      (fun t => t.memory.read 0x300 == 1 && t.memory.read 0x301 == 5 && t.memory.read 0x302 == 6) := by decide

theorem test_ldB_wraps :  -- B4.13
    next (run ((regs [(3, 0xFF)]).setI 0x0FFE) 0xF333)
      (fun t => t.memory.read 0xFFE == 2 && t.memory.read 0xFFF == 5 && t.memory.read 0x000 == 5) := by decide

theorem test_ldMem_wraps :  -- B4.12
    next (run ((regs [(0, 1), (1, 2), (2, 3)]).setI 0x0FFE) 0xF255)
      (fun t => t.memory.read 0xFFE == 1 && t.memory.read 0xFFF == 2 && t.memory.read 0x000 == 3 &&
        t.I == 0x0FFE) := by decide

theorem test_ldMem_stops_at_Vx :  -- B4.14
    next (run (bytesAt ((regs [(0, 0x11), (1, 0x22), (2, 0x33)]).setI 0x0400) 0x0403 [0x99]) 0xF255)
      (fun t => t.memory.read 0x400 == 0x11 && t.memory.read 0x402 == 0x33 && t.memory.read 0x403 == 0x99) := by
  decide

theorem test_ldVxMem :  -- B4.16
    next (run (bytesAt ((regs [(2, 0x77)]).setI 0x0400) 0x0400 [0xAA, 0xBB]) 0xF165)
      (fun t => t.reg 0 == 0xAA && t.reg 1 == 0xBB && t.reg 2 == 0x77 && t.I == 0x0400) := by decide

theorem test_ldVxMem_wraps_into_font :  -- B4.17
    next (run (State.reset.setI 0x1003) 0xF165) (fun t => t.reg 0 == 0x90 && t.reg 1 == 0xF0) := by decide

/-! ## Display (B5, B6) -/

theorem test_cls :  -- B5.1
    next (run (lit (regs [(15, 1)]) [(3, 4)]) 0x00E0)
      (fun t => shows t [] [(3, 4), (0, 0), (31, 63)] && t.drawFlag && t.reg 15 == 1 && t.pc == 0x0202) := by
  decide

/-- B6.1: glyph 0 at column 62, row 30 wraps both ways. -/
theorem test_drw_wraps :
    next (run (regs [(0, 62), (1, 30)]) 0xD015)
      (fun t => shows t
        [(30, 62), (30, 63), (30, 0), (30, 1), (31, 62), (31, 1), (0, 62), (0, 1), (1, 62), (1, 1),
         (2, 62), (2, 63), (2, 0), (2, 1)]
        [(31, 63), (31, 0), (0, 63), (0, 0), (1, 63), (1, 0), (3, 62), (30, 2), (29, 62), (30, 61)] &&
        t.reg 15 == 0 && t.drawFlag) := by decide

/-- B6.12: a collision at the right edge. -/
theorem test_drw_collision :
    next (run (lit (bytesAt ((regs [(0, 56), (1, 5)]).setI 0x300) 0x300 [0x03]) [(5, 63)]) 0xD011)
      (fun t => shows t [(5, 62)] [(5, 63), (5, 61), (5, 0)] && t.reg 15 == 1) := by decide

/-! ## Keypad and timers (B7) -/

theorem test_skp_low_nibble :  -- B7.5
    next (run (keys (regs [(0, 0x1A)]) [0xA]) 0xE09E) (fun t => t.pc == 0x0204) := by decide

theorem test_skp_not_down : next (run (regs [(0, 0x05)]) 0xE09E) (fun t => t.pc == 0x0202) := by decide  -- B7.2

theorem test_sknp_down :  -- B7.3
    next (run (keys (regs [(0, 0x05)]) [5]) 0xE0A1) (fun t => t.pc == 0x0202) := by decide

theorem test_sknp_not_down : next (run (regs [(0, 0x05)]) 0xE0A1) (fun t => t.pc == 0x0204) := by decide  -- B7.4

theorem test_keyWait_waits :  -- B7.6
    resultOf .cycle ((regs [(3, 0x55)]).storeAtPc 0xF30A) = some .waiting ∧
    next (run (regs [(3, 0x55)]) 0xF30A) (fun t => t.pc == 0x0200 && t.reg 3 == 0x55) := by decide

theorem test_keyWait_lowest :  -- B7.7
    resultOf .cycle ((keys State.reset [0xB, 7]).storeAtPc 0xF30A) = some .ok ∧
    next (run (keys State.reset [0xB, 7]) 0xF30A) (fun t => t.pc == 0x0202 && t.reg 3 == 0x07) := by decide

theorem test_ldVxDT :  -- B7.9
    next (run (State.reset.setDT 0x2C) 0xF507) (fun t => t.reg 5 == 0x2C && t.delayTimer == 0x2C) := by decide

theorem test_ldDTVx : next (run (regs [(5, 0x3C)]) 0xF515) (fun t => t.delayTimer == 0x3C) := by decide  -- B7.10

theorem test_ldSTVx :  -- B7.11
    next (run (regs [(1, 0x02)]) 0xF118) (fun t => t.soundTimer == 2 && t.soundOn) := by decide

theorem test_tick_delay :  -- B7.12
    next (perform .tick (State.reset.setDT 2)) (fun t => t.delayTimer == 1 && t.soundTimer == 0) := by decide

theorem test_tick_sound :  -- B7.13
    next (perform .tick (State.reset.setST 1)) (fun t => t.soundTimer == 0 && !t.soundOn) := by decide

theorem test_key :  -- B7.15
    next (perform (.key 3 true) State.reset) (fun t => t.keyDown 3 && !t.keyDown 2 && !t.keyDown 4) := by decide

theorem test_drawAck :  -- B7.16
    next (perform .drawAck (State.reset.setDrawFlag true)) (fun t => !t.drawFlagOut) := by decide

/-! ## Faults, reset and load (B8) -/

theorem test_unknown_opcode : faults (run State.reset 0xFFFF) (.unknownOpcode 0xFFFF 0x0200) := by decide  -- A10

theorem test_pcOutOfRange : faults (cycle (State.reset.setPc 0x0FFF)) (.pcOutOfRange 0x0FFF) := by decide  -- B8.7

theorem test_last_word_fetched :  -- B8.8
    faults (run (State.reset.setPc 0x0FFE) 0xFFFF) (.unknownOpcode 0xFFFF 0x0FFE) := by decide

/-- B8.1, the elements that a RESET clears and the bytes it writes and keeps. -/
theorem test_reset :
    next (perform .reset (bytesAt (bytesAt (keys (regs [(3, 9)]) [2]) 0x250 [0x77]) 0x000 [0x00]))
      (fun t => t.pc == 0x0200 && t.reg 3 == 0 && !t.keyDown 2 && t.memory.read 0x250 == 0x77 &&
        t.memory.read 0x000 == 0xF0) := by decide

/-- RESET copies the machine's own FONT, another than the default here (R9, R200). -/
theorem test_reset_copies_FONT :
    next (perform .reset { State.reset with font := Vector.replicate 80 0xAB })
      (fun t => t.memory.read 0x000 == 0xAB && t.memory.read 0x04F == 0xAB && t.memory.read 0x050 == 0) := by
  decide

/-- B8.5: the first of two loaded bytes lies at 0x200, and nothing above them was written. -/
theorem test_load :
    next (perform (.load [0x60, 0x12]) State.reset)
      (fun t => t.memory.read 0x200 == 0x60 && t.memory.read 0x201 == 0x12 && t.memory.read 0x202 == 0x00) := by
  decide

/-- One step performs the first transition of the schedule, a CYCLE when it is empty. -/
theorem test_step_takes_the_first_transition :
    next (step { State.reset with delayTimer := 5, schedule := [.tick, .cycle] })
      (fun t => t.delayTimer == 4 && t.schedule == [.cycle]) ∧
    faults (step State.reset) (.unknownOpcode 0x0000 0x0200) := by decide

/-! ## Witnesses: a concrete state and operands that meet the hypotheses of an obligation -/

/-- A state with the word of an instruction at pc. -/
def at_ (s : State) (i : Instr) : State := s.storeAtPc (encode i)

theorem witness_EncodeOfDecodeIsTheWord : decodeWord 0x8AB6 = some (.shr 0xA 0xB) := by decide

theorem witness_DecodeAgreesWithTheOpcodeTable :
    (⟨0x8006, 0xF00F⟩ : Row) ∈ opcodeTable ∧ Row.accepts ⟨0x8006, 0xF00F⟩ 0x8AB6 = true ∧
    decodeWord 0x8AB6 = some (.shr 0xA 0xB) := by decide

/-- The last pc a fetch is possible from, and an odd one. -/
theorem witness_FetchIsBigEndianAtAnyPc :
    ((0xFFE : Addr).toNat = (State.reset.setPc 0x0FFE).pc.toNat ∧
      (0xFFF : Addr).toNat = (State.reset.setPc 0x0FFE).pc.toNat + 1) ∧
    ((0x201 : Addr).toNat = (State.reset.setPc 0x0201).pc.toNat ∧
      (0x202 : Addr).toNat = (State.reset.setPc 0x0201).pc.toNat + 1) := by decide

theorem witness_StepRunsTheDecodedInstruction :
    let s := (State.reset.setPc 0x0FFE).storeAtPc 0x6A7F
    let s' : State := { s with schedule := [.cycle, .tick] }
    (0xFFE : Addr).toNat = s.pc.toNat ∧ (0xFFF : Addr).toNat = s.pc.toNat + 1 ∧
    decode [s.memory.read 0xFFE, s.memory.read 0xFFF] = .instr (.ld 0xA 0x7F) [] ∧
    s.schedule = [] ∧ s'.schedule = .cycle :: [.tick] ∧
    decode [s'.memory.read 0xFFE, s'.memory.read 0xFFF] = .instr (.ld 0xA 0x7F) [] := by decide

theorem witness_RunPerformsTheScheduleInOrder :
    ∃ t, Sys2Proof.core.run 2 { State.reset with schedule := [.key 5 true, .tick] } = .next t := ⟨_, rfl⟩

/-- Each of the four clauses; the bound of pc at its first value. -/
theorem witness_CycleFaultsExactlyAsListed :
    0xFFE < (State.reset.setPc 0x0FFF).pc.toNat ∧
    (State.reset.fetch = some 0x0000 ∧ decodeWord 0x0000 = none) ∧
    ((at_ State.reset .ret).current = some .ret ∧ (at_ State.reset .ret).sp = 0) ∧
    ((at_ (depth 16 0) (.call 0x300)).current = some (.call 0x300) ∧ (at_ (depth 16 0) (.call 0x300)).sp = 16) := by
  decide

theorem witness_FaultRepeatsUntilResetOrLoad :
    cycle State.reset = .fault (.unknownOpcode 0x0000 0x0200) ∧
    ∀ t ∈ [Transition.tick, .cycle, .drawAck, .key 2 true],
      t = .cycle ∨ t = .tick ∨ t = .drawAck ∨ ∃ k b, t = .key k b :=
  ⟨rfl, by simp⟩

/-- One entry, sixteen entries, none. -/
theorem witness_RetPopsIntoPc :
    (depth 1 0x0202).sp.val = (0 : Fin 16).val + 1 ∧ (depth 16 0x0202).sp.val = (15 : Fin 16).val + 1 ∧
    State.reset.sp = 0 ∧ (at_ State.reset .ret).current = some .ret ∧ (at_ State.reset .ret).sp = 0 := by decide

/-- The last free slot, and none free. -/
theorem witness_CallPushesReturnAddress :
    (depth 15 0).sp.val < 16 ∧ (depth 16 0).sp = 16 ∧
    (at_ (depth 16 0) (.call 0x300)).current = some (.call 0x300) ∧
    (at_ (depth 16 0) (.call 0x300)).sp = 16 := by decide

/-- The call, and a later state with the same stack and depth but other registers. -/
theorem witness_RetAfterCallResumesAfterTheCall :
    (depth 15 0).sp.val < 16 ∧
    ∃ t, exec (.call 0x300) (depth 15 0) = .next t ∧
      (t.setReg 3 7).stack = t.stack ∧ (t.setReg 3 7).sp = t.sp := ⟨by decide, _, rfl, rfl, rfl⟩

theorem witness_SeventeenthNestedCallOverflows :
    (List.replicate 16 (0x200 : Addr)).length = 16 ∧ State.reset.sp = 0 := by decide

theorem witness_EndedRunStaysAsItIs : (at_ State.reset (.jp 0x200)).hasEnded = true := by decide

/-- The run of stores wraps past the end of memory. -/
theorem witness_LdBStoresThreeDigits :
    ((regs [(3, 0xFF)]).setI 0x0FFE).memory.wf ∧
    ∀ k < 3, (0x300 : Addr) ≠ ea ((regs [(3, 0xFF)]).setI 0x0FFE).I k := by decide

theorem witness_LdMemStoresRegisters :
    ((regs [(0, 1)]).setI 0x0FF1).memory.wf ∧
    ∀ k ≤ (15 : Reg), (0x001 : Addr) ≠ ea ((regs [(0, 1)]).setI 0x0FF1).I k.val := by decide

/-- A jump to itself stored over the next instruction. -/
theorem witness_StoredCodeIsFetchedNext :
    let s := (regs [(0, 0x12), (1, 0x02)]).setI 0x0202
    s.memory.wf ∧ (∃ t, exec (.ldMemVx 1) s = .next t) ∧ (0 : Reg).val + 1 ≤ (1 : Reg).val ∧
    s.pc.toNat + 2 ≤ 0xFFE ∧ (ea s.I (0 : Reg).val).toNat = s.pc.toNat + 2 :=
  ⟨by decide, ⟨_, rfl⟩, by decide, by decide, by decide⟩

theorem witness_EqualReadsAreEqualMemories :
    Memory.wf [(0x300, 1)] ∧ Memory.wf (((Memory.write [] 0x300 2).write 0x000 0xF0).write 0x300 1) ∧
    ∀ a, Memory.read [(0x300, 1)] a =
      (((Memory.write [] 0x300 2).write 0x000 0xF0).write 0x300 1).read a :=
  ⟨by decide, by decide, fun _ => by rw [show (((Memory.write [] 0x300 2).write 0x000 0xF0).write 0x300 1) =
    [(0x300, 1)] by decide]⟩

/-- A covered pixel that is lit, and a blank display on which every covered pixel is unlit. -/
theorem witness_DrwTogglesCoveredPixels :
    (∃ r c, SpriteCovers (lit State.reset [(0, 3)]) 0 1 1 r c ∧
      (lit State.reset [(0, 3)]).display.pixel r c = true) ∧
    (∀ r c, SpriteCovers State.reset 0 1 5 r c → State.reset.display.pixel r c = false) :=
  ⟨⟨0, 3, ⟨0, by decide, 3, by decide, by decide, by decide, by decide⟩, by decide⟩,
    fun _ _ _ => by simp [Display.pixel, State.reset]⟩

theorem witness_DrawingTwiceRestoresTheDisplay :
    ∃ t, exec (.drw 0 1 5) (regs [(0, 62), (1, 30)]) = .next t ∧
      (t.reg 0).toNat % 64 = ((regs [(0, 62), (1, 30)]).reg 0).toNat % 64 ∧
      (t.reg 1).toNat % 32 = ((regs [(0, 62), (1, 30)]).reg 1).toNat % 32 := ⟨_, rfl, rfl, rfl⟩

theorem witness_SkipsTestingAKey :
    (15 : Key).val = ((regs [(0, 0xFF)]).reg 0).toNat % 16 ∧
    (0 : Key).val = ((regs [(0, 0x10)]).reg 0).toNat % 16 := by decide

/-- No key, and key 15 alone. -/
theorem witness_KeyWaitWaitsOrLoadsLowestKey :
    (∀ k : Key, State.reset.keypad[k.val] = false) ∧
    (keys State.reset [15]).keypad[(15 : Key).val] = true ∧
    (∀ j : Key, j < 15 → (keys State.reset [15]).keypad[j.val] = false) := by decide

theorem witness_WaitingIsReportedForTheKeyWaitAlone :
    (at_ State.reset (.ldVxK 3)).current = some (.ldVxK 3) ∧
    (∀ k : Key, (at_ State.reset (.ldVxK 3)).keypad[k.val] = false) ∧
    resultOf .cycle (at_ State.reset (.ldVxK 3)) = some .waiting := by decide

theorem witness_TimersAreReachedByThreeInstructionsOnly : usesTimers (.ldMemVx 3) = false := by decide

theorem witness_KeypadIsReachedByThreeInstructionsOnly :
    usesKeypad (.ldMemVx 3) = false ∧ ∃ t, exec (.skp 0) State.reset = .next t := ⟨by decide, _, rfl⟩

/-- A state whose memory lists bytes, one of them over the font. -/
theorem witness_ResetGivesEveryElementItsValue :
    (bytesAt (bytesAt State.reset 0x250 [0x77]) 0x000 [0x00]).memory.wf := by decide

theorem witness_ResetIsIdempotent :
    (bytesAt (bytesAt State.reset 0x250 [0x77]) 0x000 [0x00]).memory.wf :=
  witness_ResetGivesEveryElementItsValue

/-- The longest program that fits, the shortest that does not, the empty one. -/
theorem witness_LoadCopiesAFittingProgram :
    State.reset.memory.wf ∧ (List.replicate 3584 (0x60 : Byte)).length ≤ 3584 ∧
    3584 < (List.replicate 3585 (0x60 : Byte)).length ∧ ([] : List Byte) = [] :=
  ⟨by decide, by rw [List.length_replicate], by rw [List.length_replicate]; decide, rfl⟩

theorem witness_InstructionsWriteOnlyWhatTheMatrixLists :
    ∃ t, exec (.drw 0 1 5) State.reset = .next t := ⟨_, rfl⟩

theorem witness_OnlySixInstructionsWriteTheFlag :
    (∃ t, exec (.subn 15 2) State.reset = .next t) ∧ mayWriteReg (.subn 15 2) 2 = false ∧
    writesFlag (.subn 15 2) = true := ⟨⟨_, rfl⟩, by decide, by decide⟩

/-- A state with a valid stack entry and a listed byte, a RET next. -/
theorem witness_EveryStepKeepsReachableInv :
    let s := (depth 1 0x0202).storeAtPc 0x00EE
    ReachableInv s ∧ ∃ t, step s = .next t :=
  ⟨⟨by decide, by decide, by decide⟩, _, rfl⟩

/-- Stores at the lowest address a program may write. -/
theorem witness_DutifulProgramRunsAndKeepsLowMemory :
    let s := at_ ((State.reset.setPc 0x0300).setI 0x0200) (.ldMemVx 15)
    s.memory.wf ∧ s.dutyKept = true := by decide

end Sys2Proof.Tests
end

/-! Proofs of the statements on RET, JP, CALL and the skips on an immediate (spec 40_control_flow.md), after
the lemmas they share: the decoder on the encoder's words, frames, and what a faulting CYCLE returns. -/

namespace Sys2Proof

/-! ## The decoder on the encoder's words -/

/-- The word of an instruction decodes to that instruction, operands and all (R82). -/
theorem decodeWord_encode (i : Instr) : decodeWord (encode i) = some i := by
  cases i with
  | cls | ret => decide
  | _ => simp [encode, decodeWord, decode8, decodeE, decodeF]

end Sys2Proof

namespace Sys2Proof.Machine

variable {s t u : State}

/-! ## Frames -/

theorem Kept.trans {e : Element} (hst : Kept s t e) (htu : Kept t u e) : Kept s u e := by
  cases e with
  | V | memory => exact fun a => (htu a).trans (hst a)
  | _ => exact Eq.trans htu hst

/-- One update after another changes at most what either of them may change. -/
theorem KeepsAllBut.trans {c d : List Element} (hst : KeepsAllBut c s t) (htu : KeepsAllBut d t u) :
    KeepsAllBut (c ++ d) s u := fun e he =>
  (hst e fun h => he (List.mem_append_left d h)).trans (htu e fun h => he (List.mem_append_right c h))

theorem keepsAllBut_setPc (s : State) (p : Word) : KeepsAllBut [.pc] s (s.setPc p) := by
  intro e he
  cases e with
  | pc => simp at he
  | _ => simp [Kept]

theorem keepsAllBut_skipIf (s : State) (c : Bool) : KeepsAllBut [.pc] s (s.skipIf c) :=
  keepsAllBut_setPc s _

theorem keepsAllBut_push (s : State) (v : Word) (h : s.sp.val < 16) :
    KeepsAllBut [.stack, .sp] s (s.push v h) := by
  intro e he
  cases e with
  | stack | sp => simp at he
  | _ => simp [Kept]

theorem keepsAllBut_pop (s : State) : KeepsAllBut [.sp] s s.pop := by
  intro e he
  cases e with
  | sp => simp at he
  | _ => simp [Kept]

/-! ## Reads of the updated state -/

theorem toNat_zextAddr (nnn : Addr) : (zextAddr nnn).toNat = nnn.toNat :=
  BitVec.toNat_setWidth_of_le (by decide)

/-- A push writes the slot at the old depth and keeps the other slots (R26). -/
theorem State.push_stack_getElem (s : State) (v : Word) (h : s.sp.val < 16) (i : Fin 16) :
    (s.push v h).stack[i.val] = if i.val = s.sp.val then v else s.stack[i.val] := by
  simp [Vector.getElem_set, eq_comm]

/-- The most recent entry of a stack of depth i + 1 is slot i (R26). -/
theorem State.top_eq (i : Fin 16) (h : s.sp.val = i.val + 1) : s.top = s.stack[i.val] := by
  simp [State.top, h]

/-- A skip on equality passes the next instruction exactly when the two bytes are the same number (R25). -/
theorem State.skipIf_beq_pc (s : State) (a b : Byte) :
    (s.skipIf (a == b)).pc = if a.toNat = b.toNat then s.pc + 4 else s.pc + 2 := by
  by_cases h : a = b <;> simp [h, BitVec.toNat_inj]

/-- A skip on difference passes the next instruction exactly when the two bytes are different numbers (R25). -/
theorem State.skipIf_bne_pc (s : State) (a b : Byte) :
    (s.skipIf (a != b)).pc = if a.toNat = b.toNat then s.pc + 2 else s.pc + 4 := by
  by_cases h : a = b <;> simp [h, BitVec.toNat_inj]

/-! ## What RET and CALL answer, by the depth of the stack -/

theorem exec_ret_of_pos (h : s.sp ≠ 0) : exec .ret s = .next (s.pop.setPc s.top) := if_neg h

theorem exec_ret_of_empty (h : s.sp = 0) : exec .ret s = .fault (.stackUnderflow s.pc) := if_pos h

theorem exec_call_of_lt (nnn : Addr) (h : s.sp.val < 16) :
    exec (.call nnn) s = .next ((s.push (s.pc + 2) h).setPc (zextAddr nnn)) := dif_pos h

theorem exec_call_of_full (nnn : Addr) (h : s.sp = 16) :
    exec (.call nnn) s = .fault (.stackOverflow s.pc) := dif_neg (by simp [h])

/-! ## A CYCLE whose instruction faults -/

theorem cycle_eq_exec_of_current {i : Instr} (h : s.current = some i) : cycle s = exec i s := by
  obtain ⟨op, hfetch, hdecode⟩ := Option.bind_eq_some_iff.1 h
  exact cycle_eq_exec hfetch hdecode

/-- A faulting CYCLE returns the fault and leaves the state as it was (R8, R176). -/
theorem resultOf_after_of_cycle_fault {f : Fault} (h : cycle s = .fault f) :
    resultOf .cycle s = some (.fault f) ∧ after .cycle s = s := by
  simp [resultOf, after, perform, h]

/-- When the instruction at pc faults, the CYCLE returns that fault and changes nothing (R176). -/
theorem resultOf_after_of_current_fault {i : Instr} {f : Fault} (hcur : s.current = some i)
    (hexec : exec i s = .fault f) : resultOf .cycle s = some (.fault f) ∧ after .cycle s = s :=
  resultOf_after_of_cycle_fault ((cycle_eq_exec_of_current hcur).trans hexec)

/-! ## The obligations -/

/-- Settles O13: RET by the depth of the stack, its frame that of a pop followed by a write of pc. -/
theorem retPopsIntoPc : Obligations.RetPopsIntoPc := by
  refine ⟨decodeWord_encode .ret, fun s => ⟨fun i hi => ?_, exec_ret_of_empty, fun hcur hempty => ?_⟩⟩
  · have hpos : s.sp ≠ 0 := fun h => by simp [h] at hi
    exact ⟨_, exec_ret_of_pos hpos, by simp [hi], State.top_eq i hi,
      (keepsAllBut_pop s).trans (keepsAllBut_setPc _ _)⟩
  · exact resultOf_after_of_current_fault hcur (exec_ret_of_empty hempty)

/-- Settles O14: JP is a write of pc alone. -/
theorem jpSetsPc : Obligations.JpSetsPc := fun nnn s =>
  ⟨decodeWord_encode (.jp nnn), _, rfl, toNat_zextAddr nnn, keepsAllBut_setPc s _⟩

/-- Settles O15: CALL by the depth of the stack, its frame that of a push followed by a write of pc. -/
theorem callPushesReturnAddress : Obligations.CallPushesReturnAddress := by
  refine fun nnn s => ⟨decodeWord_encode (.call nnn), fun hlt => ?_, exec_call_of_full nnn,
    fun hcur hfull => ?_⟩
  · exact ⟨_, exec_call_of_lt nnn hlt, rfl, toNat_zextAddr nnn, s.push_stack_getElem _ hlt,
      (keepsAllBut_push s _ hlt).trans (keepsAllBut_setPc _ _)⟩
  · exact resultOf_after_of_current_fault hcur (exec_call_of_full nnn hfull)

/-- Settles O18: both instructions are a skip, on equality and on difference with kk. -/
theorem skipsComparingWithImmediate : Obligations.SkipsComparingWithImmediate := fun x kk s =>
  ⟨decodeWord_encode (.se x kk), decodeWord_encode (.sne x kk),
    ⟨_, rfl, keepsAllBut_skipIf s _, s.skipIf_beq_pc _ kk⟩,
    ⟨_, rfl, keepsAllBut_skipIf s _, s.skipIf_bne_pc _ kk⟩⟩

end Sys2Proof.Machine

/-! Proofs of the statements on LD, ADD with an immediate, OR, AND, XOR and the two shifts (spec
41_register_ops.md), after what they share: the frame and the registers of one register write, with or without
a flag, followed by the advance of pc. -/

namespace Sys2Proof.Machine

variable (s : State)

/-! ## Frames of a register write -/

theorem keepsAllBut_setReg (x : Reg) (v : Byte) : KeepsAllBut [.V] s (s.setReg x v) := by
  intro e he
  cases e with
  | V => simp at he
  | _ => simp [Kept]

theorem keepsAllBut_setRegThenFlag (x : Reg) (v : Byte) (b : Bool) :
    KeepsAllBut [.V] s (s.setRegThenFlag x v b) := fun e he =>
  (keepsAllBut_setReg s x v e he).trans (keepsAllBut_setReg _ .vF (flagByte b) e he)

theorem keepsAllBut_setReg_advance (x : Reg) (v : Byte) :
    KeepsAllBut [.V, .pc] s (s.setReg x v).advance :=
  (keepsAllBut_setReg s x v).trans (keepsAllBut_setPc _ _)

theorem keepsAllBut_setRegThenFlag_advance (x : Reg) (v : Byte) (b : Bool) :
    KeepsAllBut [.V, .pc] s (s.setRegThenFlag x v b).advance :=
  (keepsAllBut_setRegThenFlag s x v b).trans (keepsAllBut_setPc _ _)

/-! ## The registers after a write, as numbers and bit by bit -/

theorem State.toNat_reg_setReg (x r : Reg) (v : Byte) :
    ((s.setReg x v).reg r).toNat = if r = x then v.toNat else (s.reg r).toNat := by
  rw [State.reg_setReg, apply_ite BitVec.toNat]

theorem State.getLsbD_reg_setReg (x r : Reg) (v : Byte) (i : Nat) :
    ((s.setReg x v).reg r).getLsbD i = if r = x then v.getLsbD i else (s.reg r).getLsbD i := by
  rw [State.reg_setReg, apply_ite (BitVec.getLsbD · i)]

@[simp] theorem toNat_flagByte (b : Bool) : (flagByte b).toNat = b.toNat := by
  cases b <;> rfl

/-- VF is written last, so the flag stands there also when VF is the destination (R22). -/
theorem State.toNat_reg_setRegThenFlag (x r : Reg) (v : Byte) (b : Bool) :
    ((s.setRegThenFlag x v b).reg r).toNat =
      if r = .vF then b.toNat else if r = x then v.toNat else (s.reg r).toNat := by
  rw [State.setRegThenFlag, State.toNat_reg_setReg, State.toNat_reg_setReg, toNat_flagByte]

/-! ## The bits the shifts lose -/

theorem toNat_shiftedOutRight (a : Byte) : (shiftedOutRight a).toNat = a.toNat % 2 := by
  rw [shiftedOutRight, BitVec.getLsbD, Nat.toNat_testBit, pow_zero, Nat.div_one]

theorem toNat_shiftedOutLeft (a : Byte) : (shiftedOutLeft a).toNat = a.toNat / 128 := by
  have hone : a.toNat / 128 < 2 := by have := a.isLt; omega
  rw [shiftedOutLeft, BitVec.getLsbD, Nat.toNat_testBit, Nat.mod_eq_of_lt hone]

theorem toNat_shiftRight_one (a : Byte) : (a >>> 1).toNat = a.toNat / 2 := by
  rw [BitVec.toNat_ushiftRight, Nat.shiftRight_eq_div_pow, pow_one]

theorem toNat_shiftLeft_one (a : Byte) : (a <<< 1).toNat = 2 * a.toNat % 256 := by
  rw [BitVec.toNat_shiftLeft, Nat.shiftLeft_eq, pow_one, Nat.mul_comm]

/-! ## The obligations -/

/-- Settles O22: both instructions are one register write and an advance of pc. -/
theorem ldLoadsImmediateOrRegister : Obligations.LdLoadsImmediateOrRegister :=
  ⟨fun x kk s => ⟨decodeWord_encode (.ld x kk), _, rfl, fun r => s.reg_setReg x r kk, rfl,
    keepsAllBut_setReg_advance s x kk⟩,
  fun x y s => ⟨decodeWord_encode (.ldReg x y), _, rfl, fun r => s.reg_setReg x r (s.reg y), rfl,
    keepsAllBut_setReg_advance s x _⟩⟩

/-- Settles O23: the byte written is the sum mod 256, and V[x] is the one register written. -/
theorem addImmediateWrapsWithoutFlag : Obligations.AddImmediateWrapsWithoutFlag := fun x kk s =>
  ⟨decodeWord_encode (.add x kk), _, rfl,
    fun r => by rw [State.advance_reg, State.toNat_reg_setReg, BitVec.toNat_add], rfl,
    keepsAllBut_setReg_advance s x _⟩

/-- Settles O24: one register write each, of the byte whose bits are the or, and, exclusive or. -/
theorem logicOpsActBitwiseWithoutFlag : Obligations.LogicOpsActBitwiseWithoutFlag := by
  refine fun x y s => ⟨decodeWord_encode (.or x y), decodeWord_encode (.and x y),
    decodeWord_encode (.xor x y),
    ⟨_, rfl, rfl, keepsAllBut_setReg_advance s x _, fun r i => ?_⟩,
    ⟨_, rfl, rfl, keepsAllBut_setReg_advance s x _, fun r i => ?_⟩,
    ⟨_, rfl, rfl, keepsAllBut_setReg_advance s x _, fun r i => ?_⟩⟩
  · rw [State.advance_reg, State.getLsbD_reg_setReg, BitVec.getLsbD_or]
  · rw [State.advance_reg, State.getLsbD_reg_setReg, BitVec.getLsbD_and]
  · rw [State.advance_reg, State.getLsbD_reg_setReg, BitVec.getLsbD_xor]

/-- Settles O27: V[x] gets the half, then VF bit 0; V[y] is not read. -/
theorem shrHalvesAndSetsLostBit : Obligations.ShrHalvesAndSetsLostBit := fun x y s =>
  ⟨decodeWord_encode (.shr x y), _, rfl, rfl, keepsAllBut_setRegThenFlag_advance s x _ _,
    fun r => by
      rw [State.advance_reg, State.toNat_reg_setRegThenFlag, toNat_shiftedOutRight, toNat_shiftRight_one]⟩

/-- Settles O29: V[x] gets the double mod 256, then VF bit 7; V[y] is not read. -/
theorem shlDoublesAndSetsLostBit : Obligations.ShlDoublesAndSetsLostBit := fun x y s =>
  ⟨decodeWord_encode (.shl x y), _, rfl, rfl, keepsAllBut_setRegThenFlag_advance s x _ _,
    fun r => by
      rw [State.advance_reg, State.toNat_reg_setRegThenFlag, toNat_shiftedOutLeft, toNat_shiftLeft_one]⟩

end Sys2Proof.Machine

/-! Proofs of the statement on Fx07, Fx15 and Fx18 (spec 44_keypad_timers.md), after what it shares with TICK:
the frames of a timer write and the sound timer after any number of TICKs. -/

namespace Sys2Proof.Machine

variable (s : State)

/-! ## Frames of a timer write -/

theorem keepsAllBut_setDT (v : Byte) : KeepsAllBut [.delayTimer] s (s.setDT v) := by
  intro e he
  cases e with
  | delayTimer => simp at he
  | _ => simp [Kept]

theorem keepsAllBut_setST (v : Byte) : KeepsAllBut [.soundTimer] s (s.setST v) := by
  intro e he
  cases e with
  | soundTimer => simp at he
  | _ => simp [Kept]

theorem keepsAllBut_setDT_advance (v : Byte) :
    KeepsAllBut [.delayTimer, .pc] s (s.setDT v).advance :=
  (keepsAllBut_setDT s v).trans (keepsAllBut_setPc _ _)

theorem keepsAllBut_setST_advance (v : Byte) :
    KeepsAllBut [.soundTimer, .pc] s (s.setST v).advance :=
  (keepsAllBut_setST s v).trans (keepsAllBut_setPc _ _)

/-! ## The tone while TICKs count down -/

/-- As a number the count is truncated subtraction, which is the floor at 0 (R181). -/
@[simp] theorem toNat_countDown (v : Byte) : (countDown v).toNat = v.toNat - 1 := by
  rw [countDown]
  split
  case isTrue hzero => simp [hzero]
  case isFalse hpos => bv_omega

@[simp] theorem after_tick_soundTimer : (after .tick s).soundTimer = countDown s.soundTimer := rfl

theorem afterAll_cons (a : Transition) (ts : List Transition) :
    afterAll (a :: ts) s = afterAll ts (after a s) := rfl

theorem toNat_soundTimer_afterAll_ticks (n : Nat) :
    (afterAll (List.replicate n .tick) s).soundTimer.toNat = s.soundTimer.toNat - n := by
  induction n generalizing s with
  | zero => rfl
  | succ n ih =>
    rw [List.replicate_succ, afterAll_cons, ih, after_tick_soundTimer, toNat_countDown]
    omega

theorem State.soundOn_iff : s.soundOn = true ↔ 0 < s.soundTimer.toNat :=
  decide_eq_true_iff.trans BitVec.lt_def

/-- The tone lasts for as many TICKs as the sound timer holds (R166, R183). -/
theorem soundOn_afterAll_ticks (n : Nat) :
    (afterAll (List.replicate n .tick) s).soundOn = true ↔ n < s.soundTimer.toNat := by
  rw [State.soundOn_iff, toNat_soundTimer_afterAll_ticks, Nat.sub_pos_iff_lt]

/-! ## The obligation -/

/-- Settles O46: one register write and two timer writes, each followed by the advance of pc; the tone after
Fx18 is what TICKs leave of the sound timer. -/
theorem timerInstructionsReadAndSet : Obligations.TimerInstructionsReadAndSet := fun x s =>
  ⟨decodeWord_encode (.ldVxDT x), decodeWord_encode (.ldDTVx x), decodeWord_encode (.ldSTVx x),
    ⟨_, rfl, fun r => s.reg_setReg x r s.delayTimer, rfl, keepsAllBut_setReg_advance s x _⟩,
    ⟨_, rfl, rfl, rfl, keepsAllBut_setDT_advance s _⟩,
    ⟨_, rfl, rfl, soundOn_afterAll_ticks (s.setST (s.reg x)).advance, rfl, keepsAllBut_setST_advance s _⟩⟩

end Sys2Proof.Machine

/-! Proof of the statement on TICK (spec 60_exceptions.md R181), after what it needs beside the sound timer's
lemmas above: the frame of TICK and a timer after any number of TICKs. -/

namespace Sys2Proof.Machine

variable (s : State)

theorem keepsAllBut_tickTimers : KeepsAllBut [.delayTimer, .soundTimer] s (tickTimers s) :=
  (keepsAllBut_setDT s _).trans (keepsAllBut_setST _ _)

@[simp] theorem after_tick_delayTimer : (after .tick s).delayTimer = countDown s.delayTimer := rfl

/-- Whatever one TICK counts down, n TICKs count down by n, floored at 0; no other element enters (R181). -/
theorem toNat_afterAll_ticks_of_countDown {timer : State → Byte}
    (htick : ∀ u, timer (after .tick u) = countDown (timer u)) (n : Nat) :
    (timer (afterAll (List.replicate n .tick) s)).toNat = (timer s).toNat - n := by
  induction n generalizing s with
  | zero => rfl
  | succ n ih =>
    rw [List.replicate_succ, afterAll_cons, ih, htick, toNat_countDown, Nat.sub_sub, Nat.add_comm]

theorem toNat_delayTimer_afterAll_ticks (n : Nat) :
    (afterAll (List.replicate n .tick) s).delayTimer.toNat = s.delayTimer.toNat - n :=
  toNat_afterAll_ticks_of_countDown s after_tick_delayTimer n

/-! ## The obligation -/

/-- Settles O47: TICK is one count down of each timer, and its repetition an induction on the number of TICKs. -/
theorem ticksCountBothTimersDownToZero : Obligations.TicksCountBothTimersDownToZero :=
  ⟨fun s => ⟨_, rfl, rfl, toNat_countDown s.delayTimer, toNat_countDown s.soundTimer,
    keepsAllBut_tickTimers s⟩,
  fun n s => ⟨toNat_delayTimer_afterAll_ticks s n, toNat_soundTimer_afterAll_ticks s n⟩⟩

end Sys2Proof.Machine

/-! Proofs of the statements on the encoding (spec 30_encoding.md): a word put together again from its fields,
what each row of the opcode table accepts, and the assembler's two readings of a line. -/

namespace Sys2Proof

/-! ## A word put together again from its fields (R71, R72) -/

variable {op : Word} {h : Nibble}

theorem encADDR_of_fields (hh : fieldH op = h) : encADDR h (fieldNNN op) = op := by
  subst hh
  apply BitVec.eq_of_toNat_eq
  rw [toNat_encADDR, toNat_fieldH, toNat_fieldNNN]
  omega

theorem encXKK_of_fields (hh : fieldH op = h) : encXKK h (fieldX op) (fieldKK op) = op := by
  subst hh
  apply BitVec.eq_of_toNat_eq
  rw [toNat_encXKK, toNat_fieldH, val_fieldX, toNat_fieldKK]
  omega

theorem encXYN_of_fields {n : Nibble} (hh : fieldH op = h) (hn : fieldN op = n) :
    encXYN h (fieldX op) (fieldY op) n = op := by
  subst hh hn
  apply BitVec.eq_of_toNat_eq
  rw [toNat_encXYN, toNat_fieldH, val_fieldX, val_fieldY, toNat_fieldN]
  omega

theorem encXS_of_fields {sec : Byte} (hh : fieldH op = h) (hsec : fieldKK op = sec) :
    encXS h (fieldX op) sec = op := by
  rw [← hsec]
  exact encXKK_of_fields hh

/-! ## Encode after decode, one table of the dispatch after the other -/

theorem encode_of_decode0 {i : Instr} (hd : decode0 op = some i) : encode i = op := by
  unfold decode0 at hd
  split_ifs at hd <;> cases hd <;> exact Eq.symm ‹_›

theorem encode_of_decode8 {i : Instr} (hh : fieldH op = 0x8) (hd : decode8 op = some i) :
    encode i = op := by
  simp only [decode8] at hd
  split_ifs at hd <;> cases hd <;> exact encXYN_of_fields hh ‹_›

theorem encode_of_decodeE {i : Instr} (hh : fieldH op = 0xE) (hd : decodeE op = some i) :
    encode i = op := by
  simp only [decodeE] at hd
  split_ifs at hd <;> cases hd <;> exact encXS_of_fields hh ‹_›

theorem encode_of_decodeF {i : Instr} (hh : fieldH op = 0xF) (hd : decodeF op = some i) :
    encode i = op := by
  simp only [decodeF] at hd
  split_ifs at hd <;> cases hd <;> exact encXS_of_fields hh ‹_›

/-- The sixteen nibbles, to split the dispatch on the high one. -/
theorem nibble_cases (a : Nibble) :
    a = 0x0 ∨ a = 0x1 ∨ a = 0x2 ∨ a = 0x3 ∨ a = 0x4 ∨ a = 0x5 ∨ a = 0x6 ∨ a = 0x7 ∨
    a = 0x8 ∨ a = 0x9 ∨ a = 0xA ∨ a = 0xB ∨ a = 0xC ∨ a = 0xD ∨ a = 0xE ∨ a = 0xF := by
  revert a
  decide

/-- Every valid word is the word of the instruction it decodes to: by the high nibble, the format's fields put
together again. -/
theorem encode_of_decodeWord {i : Instr} (hd : decodeWord op = some i) : encode i = op := by
  rcases nibble_cases (fieldH op) with
    hh | hh | hh | hh | hh | hh | hh | hh | hh | hh | hh | hh | hh | hh | hh | hh <;>
    simp [decodeWord, hh] at hd
  · exact encode_of_decode0 hd
  · subst hd; exact encADDR_of_fields hh
  · subst hd; exact encADDR_of_fields hh
  · subst hd; exact encXKK_of_fields hh
  · subst hd; exact encXKK_of_fields hh
  · obtain ⟨hn, rfl⟩ := hd; exact encXYN_of_fields hh hn
  · subst hd; exact encXKK_of_fields hh
  · subst hd; exact encXKK_of_fields hh
  · exact encode_of_decode8 hh hd
  · obtain ⟨hn, rfl⟩ := hd; exact encXYN_of_fields hh hn
  · subst hd; exact encADDR_of_fields hh
  · subst hd; exact encADDR_of_fields hh
  · subst hd; exact encXKK_of_fields hh
  · subst hd; exact encXYN_of_fields hh rfl
  · exact encode_of_decodeE hh hd
  · exact encode_of_decodeF hh hd

/-! ## The unknown words of each table of the dispatch (R76) -/

/-- A test of the dispatch that fails hands the word on. -/
theorem ite_some_eq_none_iff {c : Prop} [Decidable c] {i : Instr} {o : Option Instr} :
    (if c then some i else o) = none ↔ ¬c ∧ o = none := by
  split <;> simp [*]

theorem decode0_eq_none : decode0 op = none ↔ op ≠ 0x00E0 ∧ op ≠ 0x00EE := by
  simp only [decode0, ite_some_eq_none_iff, and_true, ne_eq]

theorem decode8_eq_none : decode8 op = none ↔ 8 ≤ op.toNat % 16 ∧ op.toNat % 16 ≠ 0xE := by
  rw [← toNat_fieldN]
  have := (fieldN op).isLt
  simp [decode8, ite_some_eq_none_iff, BitVec.toNat_eq]
  omega

theorem decodeE_eq_none : decodeE op = none ↔ op.toNat % 256 ∉ [0x9E, 0xA1] := by
  simp [← toNat_fieldKK, decodeE, ite_some_eq_none_iff, BitVec.toNat_eq]

theorem decodeF_eq_none : decodeF op = none ↔
    op.toNat % 256 ∉ [0x07, 0x0A, 0x15, 0x18, 0x1E, 0x29, 0x33, 0x55, 0x65] := by
  simp [← toNat_fieldKK, decodeF, ite_some_eq_none_iff, BitVec.toNat_eq]

theorem fieldN_eq_zero : fieldN op = 0#4 ↔ op.toNat % 16 = 0 := by
  simp [← toNat_fieldN, BitVec.toNat_eq]

/-! ## What the rows of the opcode table accept (R74, R75) -/

theorem encADDR_of_accepts (hacc : Row.accepts ⟨encADDR h 0, 0xF000⟩ op = true) :
    encADDR h (fieldNNN op) = op := by
  refine encADDR_of_fields ?_
  have hmask : op &&& 0xF000 = encADDR h 0 := beq_iff_eq.1 hacc
  rw [← encADDR_of_fields (op := op) rfl, encADDR_and] at hmask
  simpa using congrArg fieldH hmask

theorem encXYN_of_accepts {n : Nibble} (hacc : Row.accepts ⟨encXYN h 0 0 n, 0xF00F⟩ op = true) :
    encXYN h (fieldX op) (fieldY op) n = op := by
  have hmask : op &&& 0xF00F = encXYN h 0 0 n := beq_iff_eq.1 hacc
  rw [← encXYN_of_fields (op := op) rfl rfl, encXYN_and] at hmask
  exact encXYN_of_fields (by simpa using congrArg fieldH hmask) (by simpa using congrArg fieldN hmask)

theorem encXS_of_accepts {sec : Byte} (hacc : Row.accepts ⟨encXS h 0 sec, 0xF0FF⟩ op = true) :
    encXS h (fieldX op) sec = op := by
  have hmask : op &&& 0xF0FF = encXS h 0 sec := beq_iff_eq.1 hacc
  rw [← encXS_of_fields (op := op) rfl rfl, encXS_and] at hmask
  exact encXS_of_fields (by simpa using congrArg fieldH hmask) (by simpa using congrArg fieldKK hmask)

theorem eq_of_accepts_all {v : Word} (hacc : Row.accepts ⟨v, 0xFFFF⟩ op = true) : v = op := by
  have hmask : op &&& 0xFFFF = v := beq_iff_eq.1 hacc
  exact hmask.symm.trans BitVec.and_allOnes

theorem encXKK_of_accepts (hacc : Row.accepts ⟨encADDR h 0, 0xF000⟩ op = true) :
    encXKK h (fieldX op) (fieldKK op) = op := by
  refine encXKK_of_fields ?_
  rw [← encADDR_of_accepts hacc, fieldH_encADDR]

theorem encXYN_of_accepts_high (hacc : Row.accepts ⟨encADDR h 0, 0xF000⟩ op = true) :
    encXYN h (fieldX op) (fieldY op) (fieldN op) = op := by
  refine encXYN_of_fields ?_ rfl
  rw [← encADDR_of_accepts hacc, fieldH_encADDR]

/-- A word that a row accepts is the word of an instruction of that row: one instruction for each row. -/
theorem exists_encode_of_accepts {r : Row} (hr : r ∈ opcodeTable) (hacc : r.accepts op = true) :
    ∃ i, encode i = op ∧ rowOf i = r := by
  simp only [opcodeTable, List.cons_append, List.nil_append, List.mem_cons, List.not_mem_nil, or_false] at hr
  rcases hr with rfl | rfl | rfl | rfl | rfl | rfl | rfl | rfl | rfl | rfl | rfl | rfl | rfl | rfl | rfl | rfl |
    rfl | rfl | rfl | rfl | rfl | rfl | rfl | rfl | rfl | rfl | rfl | rfl | rfl | rfl | rfl | rfl | rfl | rfl
  · exact ⟨.cls, eq_of_accepts_all hacc, rfl⟩
  · exact ⟨.ret, eq_of_accepts_all hacc, rfl⟩
  · exact ⟨.jp _, encADDR_of_accepts hacc, rfl⟩
  · exact ⟨.call _, encADDR_of_accepts hacc, rfl⟩
  · exact ⟨.se _ _, encXKK_of_accepts hacc, rfl⟩
  · exact ⟨.sne _ _, encXKK_of_accepts hacc, rfl⟩
  · exact ⟨.seReg _ _, encXYN_of_accepts hacc, rfl⟩
  · exact ⟨.ld _ _, encXKK_of_accepts hacc, rfl⟩
  · exact ⟨.add _ _, encXKK_of_accepts hacc, rfl⟩
  · exact ⟨.ldReg _ _, encXYN_of_accepts hacc, rfl⟩
  · exact ⟨.or _ _, encXYN_of_accepts hacc, rfl⟩
  · exact ⟨.and _ _, encXYN_of_accepts hacc, rfl⟩
  · exact ⟨.xor _ _, encXYN_of_accepts hacc, rfl⟩
  · exact ⟨.addReg _ _, encXYN_of_accepts hacc, rfl⟩
  · exact ⟨.sub _ _, encXYN_of_accepts hacc, rfl⟩
  · exact ⟨.shr _ _, encXYN_of_accepts hacc, rfl⟩
  · exact ⟨.subn _ _, encXYN_of_accepts hacc, rfl⟩
  · exact ⟨.shl _ _, encXYN_of_accepts hacc, rfl⟩
  · exact ⟨.sneReg _ _, encXYN_of_accepts hacc, rfl⟩
  · exact ⟨.ldI _, encADDR_of_accepts hacc, rfl⟩
  · exact ⟨.jpV0 _, encADDR_of_accepts hacc, rfl⟩
  · exact ⟨.rnd _ _, encXKK_of_accepts hacc, rfl⟩
  · exact ⟨.drw _ _ _, encXYN_of_accepts_high hacc, rfl⟩
  · exact ⟨.skp _, encXS_of_accepts hacc, rfl⟩
  · exact ⟨.sknp _, encXS_of_accepts hacc, rfl⟩
  · exact ⟨.ldVxDT _, encXS_of_accepts hacc, rfl⟩
  · exact ⟨.ldVxK _, encXS_of_accepts hacc, rfl⟩
  · exact ⟨.ldDTVx _, encXS_of_accepts hacc, rfl⟩
  · exact ⟨.ldSTVx _, encXS_of_accepts hacc, rfl⟩
  · exact ⟨.addIVx _, encXS_of_accepts hacc, rfl⟩
  · exact ⟨.ldFVx _, encXS_of_accepts hacc, rfl⟩
  · exact ⟨.ldBVx _, encXS_of_accepts hacc, rfl⟩
  · exact ⟨.ldMemVx _, encXS_of_accepts hacc, rfl⟩
  · exact ⟨.ldVxMem _, encXS_of_accepts hacc, rfl⟩

theorem decodeWord_of_accepts {r : Row} (hr : r ∈ opcodeTable) (hacc : r.accepts op = true) :
    ∃ i, decodeWord op = some i ∧ rowOf i = r := by
  obtain ⟨i, rfl, hi⟩ := exists_encode_of_accepts hr hacc
  exact ⟨i, decodeWord_encode i, hi⟩

open Laws.WordMatchesRow in
/-- The model's law on words and rows, for every instruction at once. -/
theorem encode_matches_rowOf (i : Instr) : Statement i := by
  cases i with
  | cls => exact cls
  | ret => exact ret
  | jp nnn => exact jp nnn
  | call nnn => exact call nnn
  | se x kk => exact se x kk
  | sne x kk => exact sne x kk
  | seReg x y => exact seReg x y
  | ld x kk => exact ld x kk
  | add x kk => exact add x kk
  | ldReg x y => exact ldReg x y
  | or x y => exact or x y
  | and x y => exact and x y
  | xor x y => exact xor x y
  | addReg x y => exact addReg x y
  | sub x y => exact sub x y
  | shr x y => exact shr x y
  | subn x y => exact subn x y
  | shl x y => exact shl x y
  | sneReg x y => exact sneReg x y
  | ldI nnn => exact ldI nnn
  | jpV0 nnn => exact jpV0 nnn
  | rnd x kk => exact rnd x kk
  | drw x y n => exact drw x y n
  | skp x => exact skp x
  | sknp x => exact sknp x
  | ldVxDT x => exact ldVxDT x
  | ldVxK x => exact ldVxK x
  | ldDTVx x => exact ldDTVx x
  | ldSTVx x => exact ldSTVx x
  | addIVx x => exact addIVx x
  | ldFVx x => exact ldFVx x
  | ldBVx x => exact ldBVx x
  | ldMemVx x => exact ldMemVx x
  | ldVxMem x => exact ldVxMem x

/-! ## The assembler (R80) -/

/-- An instruction's own line spells one of the forms, and its numbers fit the fields they come from. -/
theorem line_wellFormed (i : Instr) : i.line.wellFormed = true := by
  have hreg (x : Reg) : regOk x.val = true := decide_eq_true x.isLt
  have hbyte (b : Byte) : byteOk b.toNat = true := decide_eq_true b.isLt
  have haddr (a : Addr) : addrOk a.toNat = true := decide_eq_true a.isLt
  have hnibble (n : Nibble) : nibbleOk n.toNat = true := decide_eq_true n.isLt
  cases i <;> simp [Instr.line, AsmLine.wellFormed, hreg, hbyte, haddr, hnibble]

/-- The shapes of an instruction's own line select that instruction, and its numbers are not reduced. -/
theorem line_select (i : Instr) : i.line.select = some i := by
  cases i <;> simp [Instr.line, AsmLine.select]

/-- Every line shape that is well formed selects an instruction. -/
theorem select_isSome {l : AsmLine} (hwf : l.wellFormed = true) : l.select.isSome = true := by
  obtain ⟨m, ops⟩ := l
  unfold AsmLine.wellFormed at hwf
  split at hwf
  case h_35 => cases hwf
  all_goals simp_all [AsmLine.select]

theorem assemble_eq_none (l : AsmLine) : l.assemble = none ↔ l.wellFormed = false := by
  unfold AsmLine.assemble
  cases hwf : l.wellFormed with
  | false => simp
  | true => simpa [← Option.isSome_iff_ne_none] using select_isSome hwf

/-! ## The obligations -/

/-- Settles O2: the two bytes are the word again, and the decoder reads the encoder's word back. -/
theorem decodeOfEncodeIsTheInstruction : Obligations.DecodeOfEncodeIsTheInstruction := fun i rest => by
  rw [encodeBytes, List.cons_append, List.cons_append, List.nil_append, decode_cons, wordOfBytes_split,
    decodeWord_encode]

/-- Settles O3, by the high nibble and then the table of the dispatch. -/
theorem encodeOfDecodeIsTheWord : Obligations.EncodeOfDecodeIsTheWord := fun _ _ hd =>
  encode_of_decodeWord hd

/-- Settles O4: a matching word is an encoded instruction of the row; a decoded word is its instruction's word,
which matches its row; and two matching rows are the row of the one instruction the word decodes to. -/
theorem decodeAgreesWithTheOpcodeTable : Obligations.DecodeAgreesWithTheOpcodeTable := by
  refine fun op => ⟨fun r hr hacc => decodeWord_of_accepts hr hacc, fun i hd => ?_,
    fun r hr r' hr' hacc hacc' => ?_⟩
  · obtain ⟨hacc, hmem⟩ := encode_matches_rowOf i
    exact ⟨hmem, encode_of_decodeWord hd ▸ hacc⟩
  · obtain ⟨i, hd, rfl⟩ := decodeWord_of_accepts hr hacc
    obtain ⟨j, hd', rfl⟩ := decodeWord_of_accepts hr' hacc'
    rw [Option.some_inj.1 (hd.symm.trans hd')]

/-- Settles O5, by the high nibble and the unknown words of each table of the dispatch. -/
theorem unknownWordsAreExactlyThoseListed : Obligations.UnknownWordsAreExactlyThoseListed := by
  intro op
  rw [← toNat_fieldH]
  rcases nibble_cases (fieldH op) with
    hh | hh | hh | hh | hh | hh | hh | hh | hh | hh | hh | hh | hh | hh | hh | hh <;>
    simp [decodeWord, hh, decode0_eq_none, decode8_eq_none, decodeE_eq_none, decodeF_eq_none, fieldN_eq_zero]

/-- Settles O6: an instruction's own line, and that the shapes that are well formed are those that select. -/
theorem assemblerGivesBackTheSpelledInstruction : Obligations.AssemblerGivesBackTheSpelledInstruction :=
  ⟨fun i => ⟨line_wellFormed i, (if_pos (line_wellFormed i)).trans (line_select i)⟩, assemble_eq_none⟩

/-- Settles O1, by the decoder on each of the sixteen words. -/
theorem specWordsDecodeAsListed : Obligations.SpecWordsDecodeAsListed := by
  unfold Obligations.SpecWordsDecodeAsListed
  decide

end Sys2Proof

/-! Proofs of the statements on every instruction at once: the access matrix (spec 10_state.md R35), the
registers an instruction writes (R22), and what RET and CALL alone can fault with (60_exceptions.md R170). -/

namespace Sys2Proof.Machine

variable {s t u : State}

/-! ## Frames of the updates that have none above -/

theorem KeepsAllBut.mono {c d : List Element} (h : KeepsAllBut c s t) (hcd : c ⊆ d) : KeepsAllBut d s t :=
  fun e he => h e fun hc => he (hcd hc)

/-- A write of pc after an update adds pc to what may have changed. -/
theorem KeepsAllBut.setPc {c : List Element} (h : KeepsAllBut c s t) (p : Word) :
    KeepsAllBut (.pc :: c) s (t.setPc p) :=
  (h.trans (keepsAllBut_setPc t p)).mono (by simp)

theorem keepsAllBut_refl (c : List Element) (s : State) : KeepsAllBut c s s := by
  intro e _
  cases e <;> simp [Kept]

theorem keepsAllBut_setI (s : State) (v : Word) : KeepsAllBut [.I] s (s.setI v) := by
  intro e he
  cases e with
  | I => simp at he
  | _ => simp [Kept]

theorem keepsAllBut_setMemory (s : State) (m : Memory) : KeepsAllBut [.memory] s (s.setMemory m) := by
  intro e he
  cases e with
  | memory => simp at he
  | _ => simp [Kept]

theorem keepsAllBut_setDisplay (s : State) (d : Display) : KeepsAllBut [.display] s (s.setDisplay d) := by
  intro e he
  cases e with
  | display => simp at he
  | _ => simp [Kept]

theorem keepsAllBut_setDrawFlag (s : State) (b : Bool) : KeepsAllBut [.drawFlag] s (s.setDrawFlag b) := by
  intro e he
  cases e with
  | drawFlag => simp at he
  | _ => simp [Kept]

theorem keepsAllBut_drawn (s : State) : KeepsAllBut [.rndCount] s s.drawn := by
  intro e he
  cases e with
  | rndCount => simp at he
  | _ => simp [Kept]

theorem keepsAllBut_loadRun (s : State) (x : Reg) : KeepsAllBut [.V] s (s.loadRun x) := by
  obtain ⟨V, h⟩ := s.loadRun_eq x
  intro e he
  rw [h]
  cases e with
  | V => simp at he
  | _ => simp [Kept]

/-! ## What an instruction can answer -/

theorem exec_ldVxK_of_none (x : Reg) (h : s.lowestKey = none) : exec (.ldVxK x) s = .next s := by
  simp only [exec, execLdVxK, h]

theorem exec_ldVxK_of_some (x : Reg) {k : Key} (h : s.lowestKey = some k) :
    exec (.ldVxK x) s = .next (s.setReg x (BitVec.ofNat 8 k.val)).advance := by
  simp only [exec, execLdVxK, h]

/-- Every instruction goes on, but RET on an empty stack and CALL on a full one, which fault (R170). -/
theorem exec_next_or_fault (i : Instr) (s : State) :
    (∃ t, exec i s = .next t) ∨
    (i = .ret ∧ s.sp = 0 ∧ exec i s = .fault (.stackUnderflow s.pc)) ∨
    (∃ nnn, i = .call nnn ∧ s.sp = 16 ∧ exec i s = .fault (.stackOverflow s.pc)) := by
  cases i with
  | ret =>
    by_cases hsp : s.sp = 0
    · exact .inr (.inl ⟨rfl, hsp, exec_ret_of_empty hsp⟩)
    · exact .inl ⟨_, exec_ret_of_pos hsp⟩
  | call nnn =>
    by_cases hsp : s.sp.val < 16
    · exact .inl ⟨_, exec_call_of_lt nnn hsp⟩
    · have hfull : s.sp = 16 := Fin.ext (by omega)
      exact .inr (.inr ⟨nnn, rfl, hfull, exec_call_of_full nnn hfull⟩)
  | ldVxK x =>
    cases hkey : s.lowestKey with
    | none => exact .inl ⟨_, exec_ldVxK_of_none x hkey⟩
    | some k => exact .inl ⟨_, exec_ldVxK_of_some x hkey⟩
  | _ => exact .inl ⟨_, rfl⟩

/-- R35's "written by" column: an instruction that goes on changes pc and its listed elements at most. -/
theorem exec_keepsAllBut {i : Instr} (h : exec i s = .next t) : KeepsAllBut (.pc :: mayWrite i) s t := by
  cases i with
  | cls =>
    cases h
    exact ((keepsAllBut_setDisplay s _).trans (keepsAllBut_setDrawFlag _ _)).setPc _
  | ret =>
    obtain ⟨-, rfl⟩ := execRet_next h
    exact (keepsAllBut_pop s).setPc _
  | call nnn =>
    obtain ⟨hsp, rfl⟩ := execCall_next h
    exact (keepsAllBut_push s _ hsp).setPc _
  | jp | jpV0 | se | sne | seReg | sneReg | skp | sknp =>
    cases h
    exact keepsAllBut_setPc s _
  | ld | add | ldReg | or | and | xor | ldVxDT =>
    cases h
    exact (keepsAllBut_setReg s _ _).setPc _
  | addReg | sub | shr | subn | shl =>
    cases h
    exact (keepsAllBut_setRegThenFlag s _ _ _).setPc _
  | ldI | addIVx | ldFVx =>
    cases h
    exact (keepsAllBut_setI s _).setPc _
  | rnd =>
    cases h
    exact (((keepsAllBut_drawn s).trans (keepsAllBut_setReg _ _ _)).setPc _).mono (by simp [mayWrite])
  | drw =>
    cases h
    exact ((((keepsAllBut_setDisplay s _).trans (keepsAllBut_setReg _ _ _)).trans
      (keepsAllBut_setDrawFlag _ _)).setPc _).mono (by simp [mayWrite])
  | ldVxK x =>
    obtain ⟨-, rfl⟩ | ⟨k, -, rfl⟩ := execLdVxK_next h
    · exact keepsAllBut_refl _ _
    · exact (keepsAllBut_setReg s _ _).setPc _
  | ldDTVx =>
    cases h
    exact (keepsAllBut_setDT s _).setPc _
  | ldSTVx =>
    cases h
    exact (keepsAllBut_setST s _).setPc _
  | ldBVx | ldMemVx =>
    cases h
    exact (keepsAllBut_setMemory s _).setPc _
  | ldVxMem =>
    cases h
    exact (keepsAllBut_loadRun s _).setPc _

/-- The frame of an instruction, from the access matrix. -/
theorem exec_frame {i : Instr} {c : List Element} (h : exec i s = .next t) (hc : .pc :: mayWrite i ⊆ c) :
    KeepsAllBut c s t :=
  (exec_keepsAllBut h).mono hc

/-- An instruction for which the access matrix does not list V keeps every register. -/
theorem exec_reg_of_not_mem {i : Instr} (h : exec i s = .next t) (hV : .V ∉ mayWrite i) (r : Reg) :
    t.reg r = s.reg r :=
  exec_keepsAllBut h .V (by simp [hV]) r

/-- A register changes only as a destination, or as VF of the six flag-writing instructions (R21, R22). -/
theorem exec_reg_of_not_mayWriteReg {i : Instr} (h : exec i s = .next t) {r : Reg}
    (hr : mayWriteReg i r = false) : t.reg r = s.reg r := by
  cases i with
  | ld | add | ldReg | or | and | xor | ldVxDT | rnd | addReg | sub | shr | subn | shl | drw =>
    cases h
    simp [mayWriteReg] at hr
    simp [hr]
  | ldVxK x =>
    simp [mayWriteReg] at hr
    obtain ⟨-, rfl⟩ | ⟨k, -, rfl⟩ := execLdVxK_next h <;> simp [hr]
  | ldVxMem x =>
    cases h
    simp [mayWriteReg] at hr
    simp [State.loadRun_reg, hr]
  | _ => exact exec_reg_of_not_mem h (by simp [mayWrite]) r

/-- The six flag-writing instructions leave a flag byte in VF (R22). -/
theorem exec_reg_vF_of_writesFlag {i : Instr} (h : exec i s = .next t) (hi : writesFlag i = true) :
    ∃ b, t.reg .vF = flagByte b := by
  cases i with
  | addReg | sub | shr | subn | shl =>
    cases h
    exact ⟨_, (State.reg_setRegThenFlag _ _ _ _ _).trans (if_pos rfl)⟩
  | drw =>
    cases h
    exact ⟨_, (State.reg_setReg _ _ _ _).trans (if_pos rfl)⟩
  | _ => cases hi

/-! ## The obligations -/

/-- Settles O56, by the constructors of Instr. -/
theorem instructionsWriteOnlyWhatTheMatrixLists : Obligations.InstructionsWriteOnlyWhatTheMatrixLists :=
  fun _ _ _ h => exec_keepsAllBut h

/-- Settles O57, by the constructors of Instr. -/
theorem onlySixInstructionsWriteTheFlag : Obligations.OnlySixInstructionsWriteTheFlag := by
  refine fun i s t h => ⟨fun r hr => exec_reg_of_not_mayWriteReg h hr, fun hi => ?_⟩
  obtain ⟨b, hb⟩ := exec_reg_vF_of_writesFlag h hi
  have hflag := flagByte_zero_or_one b
  rwa [← hb] at hflag

end Sys2Proof.Machine

/-! Proofs of the statements on the fetch, CYCLE, its faults and the schedule (spec 20_memory.md R54,
60_exceptions.md R170 to R178, 00_scope.md R7), and on what instructions reach of timers and keypad (R160). -/

namespace Sys2Proof.Machine

variable {s t : State}

/-! ## The fetch (R54) -/

/-- With pc and pc + 1 addresses of memory the fetch takes the two bytes there. -/
theorem State.fetch_of_addrs {a b : Addr} (ha : a.toNat = s.pc.toNat) (hb : b.toNat = s.pc.toNat + 1) :
    s.fetch = some (wordOfBytes (s.memory.read a) (s.memory.read b)) := by
  have hbound := b.isLt
  have hpc : ¬s.pc > Config.lastFetch := by simp [Config.lastFetch, BitVec.lt_def]; omega
  have ha' : s.pc.setWidth 12 = a := by bv_omega
  have hb' : (s.pc + 1).setWidth 12 = b := by bv_omega
  rw [State.fetch, if_neg hpc, ha', hb']

/-- The fetch reads pc and memory alone. -/
theorem State.fetch_congr (hpc : t.pc = s.pc) (hmem : t.memory = s.memory) : t.fetch = s.fetch := by
  rw [State.fetch, State.fetch, hpc, hmem]

theorem toNat_wordOfBytes (hi lo : Byte) : (wordOfBytes hi lo).toNat = hi.toNat * 256 + lo.toNat :=
  toNat_append_lt hi lo

/-- Two bytes decode to an instruction exactly when their word does. -/
theorem decode_pair {hi lo : Byte} {i : Instr} :
    decode [hi, lo] = .instr i [] ↔ decodeWord (wordOfBytes hi lo) = some i := by
  rw [decode_cons]
  cases decodeWord (wordOfBytes hi lo) <;> simp

/-! ## The faults of a CYCLE (R170, R178) -/

theorem exec_ne_refused (i : Instr) (s : State) (r : Refusal) : exec i s ≠ .refused r := by
  obtain ⟨t, h⟩ | ⟨-, -, h⟩ | ⟨nnn, -, -, h⟩ := exec_next_or_fault i s <;> simp [h]

/-- An instruction faults as RET on an empty stack or as CALL on a full one, and in no other way. -/
theorem exec_eq_fault {i : Instr} {f : Fault} :
    exec i s = .fault f ↔
      (i = .ret ∧ s.sp = 0 ∧ f = .stackUnderflow s.pc) ∨
      (∃ nnn, i = .call nnn ∧ s.sp = 16 ∧ f = .stackOverflow s.pc) := by
  constructor
  · intro h
    obtain ⟨t, h'⟩ | ⟨hi, hsp, h'⟩ | ⟨nnn, hi, hsp, h'⟩ := exec_next_or_fault i s <;> rw [h] at h'
    · cases h'
    · cases h'
      exact .inl ⟨hi, hsp, rfl⟩
    · cases h'
      exact .inr ⟨nnn, hi, hsp, rfl⟩
  · rintro (⟨rfl, hsp, rfl⟩ | ⟨nnn, rfl, hsp, rfl⟩)
    · exact exec_ret_of_empty hsp
    · exact exec_call_of_full nnn hsp

theorem State.current_eq_some {i : Instr} :
    s.current = some i ↔ ∃ op, s.fetch = some op ∧ decodeWord op = some i :=
  Option.bind_eq_some_iff

theorem cycle_of_fetch_none (h : s.fetch = none) : cycle s = .fault (.pcOutOfRange s.pc) := by
  simp [cycle, h, raise]

theorem cycle_of_unknown {op : Word} (hf : s.fetch = some op) (hd : decodeWord op = none) :
    cycle s = .fault (.unknownOpcode op s.pc) := by
  simp [cycle, hf, hd, raise]

/-- What a CYCLE is, by the fetch and the decoder (R74, R178). -/
theorem cycle_cases (s : State) :
    (s.fetch = none ∧ cycle s = .fault (.pcOutOfRange s.pc)) ∨
    (∃ op, s.fetch = some op ∧ decodeWord op = none ∧ cycle s = .fault (.unknownOpcode op s.pc)) ∨
    (∃ i, s.current = some i ∧ cycle s = exec i s) := by
  cases hf : s.fetch with
  | none => exact .inl ⟨rfl, cycle_of_fetch_none hf⟩
  | some op =>
    cases hd : decodeWord op with
    | none => exact .inr (.inl ⟨op, rfl, hd, cycle_of_unknown hf hd⟩)
    | some i => exact .inr (.inr ⟨i, State.current_eq_some.2 ⟨op, hf, hd⟩, cycle_eq_exec hf hd⟩)

theorem fetch_eq_none_iff_toNat : s.fetch = none ↔ 0xFFE < s.pc.toNat :=
  State.fetch_eq_none.trans BitVec.lt_def

theorem cycle_eq_fault {f : Fault} :
    cycle s = .fault f ↔
      (s.fetch = none ∧ f = .pcOutOfRange s.pc) ∨
      (∃ op, s.fetch = some op ∧ decodeWord op = none ∧ f = .unknownOpcode op s.pc) ∨
      (s.current = some .ret ∧ s.sp = 0 ∧ f = .stackUnderflow s.pc) ∨
      (∃ nnn, s.current = some (.call nnn) ∧ s.sp = 16 ∧ f = .stackOverflow s.pc) := by
  constructor
  · intro h
    obtain ⟨hf, hc⟩ | ⟨op, hf, hd, hc⟩ | ⟨i, hcur, hc⟩ := cycle_cases s <;> rw [hc] at h
    · cases h
      exact .inl ⟨hf, rfl⟩
    · cases h
      exact .inr (.inl ⟨op, hf, hd, rfl⟩)
    · obtain ⟨rfl, hsp, rfl⟩ | ⟨nnn, rfl, hsp, rfl⟩ := exec_eq_fault.1 h
      · exact .inr (.inr (.inl ⟨hcur, hsp, rfl⟩))
      · exact .inr (.inr (.inr ⟨nnn, hcur, hsp, rfl⟩))
  · rintro (⟨hf, rfl⟩ | ⟨op, hf, hd, rfl⟩ | ⟨hcur, hsp, rfl⟩ | ⟨nnn, hcur, hsp, rfl⟩)
    · exact cycle_of_fetch_none hf
    · exact cycle_of_unknown hf hd
    · exact (cycle_eq_exec_of_current hcur).trans (exec_ret_of_empty hsp)
    · exact (cycle_eq_exec_of_current hcur).trans (exec_call_of_full nnn hsp)

theorem cycle_ne_refused (s : State) (r : Refusal) : cycle s ≠ .refused r := by
  obtain ⟨-, hc⟩ | ⟨op, -, -, hc⟩ | ⟨i, -, hc⟩ := cycle_cases s <;> rw [hc]
  · simp
  · simp
  · exact exec_ne_refused i s r

/-- A fault of CYCLE depends on pc, memory and the depth of the stack alone. -/
theorem cycle_fault_congr {f : Fault} (hpc : t.pc = s.pc) (hmem : t.memory = s.memory) (hsp : t.sp = s.sp)
    (h : cycle s = .fault f) : cycle t = .fault f := by
  have hfetch := State.fetch_congr hpc hmem
  have hcur : t.current = s.current := by rw [State.current, State.current, hfetch]
  rw [cycle_eq_fault] at h ⊢
  rwa [hfetch, hcur, hpc, hsp]

/-- No transition but RESET and LOAD cures a fault of CYCLE (R177). -/
theorem cycle_after_of_fault {f : Fault} (h : cycle s = .fault f) {a : Transition}
    (ha : a = .cycle ∨ a = .tick ∨ a = .drawAck ∨ ∃ k b, a = .key k b) :
    cycle (after a s) = .fault f := by
  obtain rfl | rfl | rfl | ⟨k, b, rfl⟩ := ha
  · rw [(resultOf_after_of_cycle_fault h).2]
    exact h
  all_goals exact cycle_fault_congr (s := s) rfl rfl rfl h

theorem cycle_afterAll_of_fault {f : Fault} {ts : List Transition} (h : cycle s = .fault f)
    (hts : ∀ a ∈ ts, a = .cycle ∨ a = .tick ∨ a = .drawAck ∨ ∃ k b, a = .key k b) :
    cycle (afterAll ts s) = .fault f := by
  induction ts generalizing s with
  | nil => exact h
  | cons a ts ih =>
    obtain ⟨ha, hts⟩ := List.forall_mem_cons.1 hts
    exact ih (cycle_after_of_fault h ha) hts

/-! ## One transition -/

theorem perform_ne_refused (a : Transition) (s : State) (r : Refusal) : perform a s ≠ .refused r := by
  cases a with
  | cycle => exact cycle_ne_refused s r
  | load bytes =>
    simp only [perform, loadProgram, raise]
    split <;> simp
  | _ => simp [perform]

/-! ## Updates an instruction does not see (R160)

An update commutes with an instruction when executing after it is the update after executing: the instruction
neither reads nor writes what it replaces. -/

@[simp] theorem mapNext_next (f : State → State) (s : State) : mapNext f (.next s) = .next (f s) := rfl

@[simp] theorem mapNext_fault (f : State → State) (r : Fault) : mapNext f (.fault r) = .fault r := rfl

/-- An update that leaves alone what RET, CALL and Fx65 read, and commutes with what they write. -/
structure Unseen (f : State → State) : Prop where
  pc : ∀ u, (f u).pc = u.pc
  sp : ∀ u, (f u).sp = u.sp
  top : ∀ u, (f u).top = u.top
  I : ∀ u, (f u).I = u.I
  memory : ∀ u, (f u).memory = u.memory
  setPc : ∀ u p, (f u).setPc p = f (u.setPc p)
  pop : ∀ u, (f u).pop = f u.pop
  push : ∀ u v h h', (f u).push v h' = f (u.push v h)
  setReg : ∀ u x v, (f u).setReg x v = f (u.setReg x v)

variable {f : State → State}

theorem Unseen.exec_ret (hf : Unseen f) (s : State) : exec .ret (f s) = mapNext f (exec .ret s) := by
  by_cases hsp : s.sp = 0
  · rw [exec_ret_of_empty hsp, exec_ret_of_empty ((hf.sp s).trans hsp), hf.pc, mapNext_fault]
  · rw [exec_ret_of_pos hsp, exec_ret_of_pos (hf.sp s ▸ hsp), hf.top, hf.pop, hf.setPc, mapNext_next]

theorem Unseen.exec_call (hf : Unseen f) (nnn : Addr) (s : State) :
    exec (.call nnn) (f s) = mapNext f (exec (.call nnn) s) := by
  by_cases hsp : s.sp.val < 16
  · rw [exec_call_of_lt nnn hsp, exec_call_of_lt nnn (hf.sp s ▸ hsp), hf.pc, hf.push, hf.setPc, mapNext_next]
  · have hfull : s.sp = 16 := Fin.ext (by omega)
    rw [exec_call_of_full nnn hfull, exec_call_of_full nnn ((hf.sp s).trans hfull), hf.pc, mapNext_fault]

theorem Unseen.loadRun (hf : Unseen f) (s : State) (x : Reg) : (f s).loadRun x = f (s.loadRun x) := by
  rw [State.loadRun, State.loadRun, hf.I, hf.memory]
  exact List.foldl_hom f fun u k => hf.setReg u _ _

theorem Unseen.exec_ldVxMem (hf : Unseen f) (x : Reg) (s : State) :
    exec (.ldVxMem x) (f s) = mapNext f (exec (.ldVxMem x) s) := by
  simp only [exec, execLdVxMem, State.advance, mapNext_next, hf.loadRun, hf.setPc, hf.pc]

/-- The key wait too, when the update leaves the key latches alone. -/
theorem Unseen.exec_ldVxK (hf : Unseen f) (x : Reg) (s : State) (hkey : (f s).lowestKey = s.lowestKey) :
    exec (.ldVxK x) (f s) = mapNext f (exec (.ldVxK x) s) := by
  simp only [exec, execLdVxK, hkey]
  cases s.lowestKey with
  | none => rfl
  | some k => simp only [State.advance, mapNext_next, hf.setReg, hf.setPc, hf.pc]

/-- Both timers replaced. -/
def State.setTimers (s : State) (v w : Byte) : State := (s.setDT v).setST w

/-- The schedule replaced (log 1). -/
def State.withSchedule (s : State) (ts : List Transition) : State := { s with schedule := ts }

theorem unseen_setTimers (v w : Byte) : Unseen (·.setTimers v w) := by
  constructor <;> intros <;> rfl

theorem unseen_setKey (k : Key) (b : Bool) : Unseen (·.setKey k b) := by
  constructor <;> intros <;> rfl

theorem unseen_withSchedule (ts : List Transition) : Unseen (·.withSchedule ts) := by
  constructor <;> intros <;> rfl

theorem exec_setTimers {i : Instr} (hi : usesTimers i = false) (s : State) (v w : Byte) :
    exec i (s.setTimers v w) = mapNext (·.setTimers v w) (exec i s) := by
  cases i with
  | ret => exact (unseen_setTimers v w).exec_ret s
  | call nnn => exact (unseen_setTimers v w).exec_call nnn s
  | ldVxK x => exact (unseen_setTimers v w).exec_ldVxK x s rfl
  | ldVxMem x => exact (unseen_setTimers v w).exec_ldVxMem x s
  | ldVxDT | ldDTVx | ldSTVx => cases hi
  | _ => rfl

theorem exec_setKey {i : Instr} (hi : usesKeypad i = false) (s : State) (k : Key) (b : Bool) :
    exec i (s.setKey k b) = mapNext (·.setKey k b) (exec i s) := by
  cases i with
  | ret => exact (unseen_setKey k b).exec_ret s
  | call nnn => exact (unseen_setKey k b).exec_call nnn s
  | ldVxMem x => exact (unseen_setKey k b).exec_ldVxMem x s
  | skp | sknp | ldVxK => cases hi
  | _ => rfl

theorem exec_withSchedule (i : Instr) (s : State) (ts : List Transition) :
    exec i (s.withSchedule ts) = mapNext (·.withSchedule ts) (exec i s) := by
  cases i with
  | ret => exact (unseen_withSchedule ts).exec_ret s
  | call nnn => exact (unseen_withSchedule ts).exec_call nnn s
  | ldVxK x => exact (unseen_withSchedule ts).exec_ldVxK x s rfl
  | ldVxMem x => exact (unseen_withSchedule ts).exec_ldVxMem x s
  | _ => rfl

/-! ## The schedule (R7; log 1) -/

theorem cycle_withSchedule (s : State) (ts : List Transition) :
    cycle (s.withSchedule ts) = mapNext (·.withSchedule ts) (cycle s) := by
  have hfetch : (s.withSchedule ts).fetch = s.fetch := rfl
  rw [cycle, cycle, hfetch]
  cases s.fetch with
  | none => rfl
  | some op =>
    cases hd : decodeWord op with
    | none => simp only [hd]; rfl
    | some i => simp only [hd]; exact exec_withSchedule i s ts

/-- No transition reads or writes the schedule. -/
theorem perform_withSchedule (a : Transition) (s : State) (ts : List Transition) :
    perform a (s.withSchedule ts) = mapNext (·.withSchedule ts) (perform a s) := by
  cases a with
  | cycle => exact cycle_withSchedule s ts
  | load bytes =>
    simp only [perform, loadProgram, raise]
    split <;> rfl
  | _ => rfl

theorem after_withSchedule (a : Transition) (s : State) (ts : List Transition) :
    after a (s.withSchedule ts) = (after a s).withSchedule ts := by
  rw [after, after, perform_withSchedule]
  cases perform a s <;> rfl

theorem after_eq_of_perform {a : Transition} (h : perform a s = .next t) : after a s = t := by
  rw [after, h]

/-- A step with `a` first in the schedule is `a`, with the rest of the schedule left (R7). -/
theorem step_withSchedule_cons (a : Transition) (ts : List Transition) (s : State) :
    step (s.withSchedule (a :: ts)) = mapNext (·.withSchedule ts) (perform a s) :=
  perform_withSchedule a s ts

/-- A run whose first step is a transition that goes on is the run of the rest after that transition. -/
theorem run_withSchedule_cons {a : Transition} {ts : List Transition}
    (h : Sys2Proof.core.run (ts.length + 1) (s.withSchedule (a :: ts)) = .next t) :
    Sys2Proof.core.run ts.length ((after a s).withSchedule ts) = .next t := by
  have hstep : Sys2Proof.core.step (s.withSchedule (a :: ts)) = mapNext (·.withSchedule ts) (perform a s) :=
    step_withSchedule_cons a ts s
  simp only [Host.Core.run, hstep] at h
  cases hp : perform a s with
  | next u =>
    rw [hp] at h
    rwa [after_eq_of_perform hp]
  | fault f =>
    rw [hp] at h
    cases h
  | refused r => exact absurd hp (perform_ne_refused a s r)

/-- As many steps as the schedule is long perform its transitions in order (R7). -/
theorem run_withSchedule {ts : List Transition}
    (h : Sys2Proof.core.run ts.length (s.withSchedule ts) = .next t) :
    t = afterAll ts (s.withSchedule []) := by
  induction ts generalizing s with
  | nil =>
    cases h
    rfl
  | cons a ts ih => rw [ih (run_withSchedule_cons h), afterAll_cons, after_withSchedule]

/-! ## The obligations -/

/-- Settles O7: the word of the two bytes at pc and pc + 1, as a number. -/
theorem fetchIsBigEndianAtAnyPc : Obligations.FetchIsBigEndianAtAnyPc := fun _ _ _ ha hb =>
  ⟨_, State.fetch_of_addrs ha hb, toNat_wordOfBytes _ _⟩

/-- Settles O8: with a CYCLE next, a step is the decoded instruction on the state with the schedule advanced. -/
theorem stepRunsTheDecodedInstruction : Obligations.StepRunsTheDecodedInstruction := by
  intro s a b i ha hb hd
  have hcycle (u : State) (hpc : u.pc = s.pc) (hmem : u.memory = s.memory) : cycle u = exec i u :=
    cycle_eq_exec ((State.fetch_congr hpc hmem).trans (State.fetch_of_addrs ha hb)) (decode_pair.1 hd)
  refine ⟨fun hs => ?_, fun ts hs => ?_⟩
  · have hsame : s.scheduled = s := by rw [State.scheduled, hs, List.tail_nil, ← hs]
    rw [step_of_cycle_next (by simp [State.nextTransition, hs]), hsame]
    exact hcycle s rfl rfl
  · have htail : s.scheduled = { s with schedule := ts } := by simp [State.scheduled, hs]
    rw [step_of_cycle_next (by simp [State.nextTransition, hs]), htail]
    exact hcycle _ rfl rfl

/-- Settles O9, by induction on the schedule. -/
theorem runPerformsTheScheduleInOrder : Obligations.RunPerformsTheScheduleInOrder := fun _ s _ h =>
  run_withSchedule (s := s) h

/-- Settles O10, by the fetch, the decoder and the two instructions that fault. -/
theorem cycleFaultsExactlyAsListed : Obligations.CycleFaultsExactlyAsListed := fun s f => by
  rw [cycle_eq_fault, fetch_eq_none_iff_toNat]

/-- Settles O11, by induction on the transitions after the fault. -/
theorem faultRepeatsUntilResetOrLoad : Obligations.FaultRepeatsUntilResetOrLoad := fun _ _ _ h hts =>
  ⟨(resultOf_after_of_cycle_fault h).2, cycle_afterAll_of_fault h hts⟩

/-- Settles O12: no transition is refused, and a step is a transition. -/
theorem noStepIsRefused : Obligations.NoStepIsRefused := fun s r =>
  perform_ne_refused s.nextTransition s.scheduled r

/-- Settles O48: the other 31 instructions commute with a write of both timers. -/
theorem timersAreReachedByThreeInstructionsOnly : Obligations.TimersAreReachedByThreeInstructionsOnly :=
  fun _ s v w hi => exec_setTimers hi s v w

/-- Settles O49: the other 31 instructions commute with KEY, and the access matrix lists the latches for none. -/
theorem keypadIsReachedByThreeInstructionsOnly : Obligations.KeypadIsReachedByThreeInstructionsOnly :=
  ⟨fun _ s k b hi => exec_setKey hi s k b,
    fun i _ _ h => exec_keepsAllBut h .keypad (by cases i <;> simp [mayWrite])⟩

end Sys2Proof.Machine

/-! Proofs of the statements on memory and the index register (spec 20_memory.md, 42_index_memory.md), on RESET,
power-on and LOAD (70_reset_and_hazards.md), after what they share: the one canonical form of a memory. -/

namespace Sys2Proof.Machine

variable {s t : State}

/-! ## The canonical form is one -/

/-- A canonical memory lists exactly the bytes that differ from what an unlisted address reads as. -/
theorem Memory.mem_iff_byteAt {m : Memory} (hm : m.wf) (c : Host.Cell) :
    c ∈ m ↔ m.byteAt c.1 = c.2 ∧ c.2 ≠ Memory.unlisted c.1 := by
  induction m with
  | nil => simp [Memory.byteAt, eq_comm]
  | cons d m ih =>
    obtain ⟨hsorted, hcells⟩ := hm
    obtain ⟨hlow, hsorted⟩ := List.pairwise_cons.1 hsorted
    obtain ⟨⟨-, hd⟩, hcells⟩ := List.forall_mem_cons.1 hcells
    rw [List.mem_cons, ih ⟨hsorted, hcells⟩, Memory.byteAt]
    split
    case isTrue hkey =>
      rw [Memory.byteAt_of_lt m c.1 (hkey ▸ hlow)]
      constructor
      · rintro (rfl | ⟨heq, hne⟩)
        · exact ⟨rfl, hd⟩
        · exact absurd heq.symm hne
      · rintro ⟨hval, -⟩
        exact .inl (Prod.ext hkey.symm hval.symm)
    case isFalse hkey =>
      refine or_iff_right fun hc => hkey ?_
      rw [hc]

/-- Past the 4096 addresses a canonical memory lists nothing. -/
theorem Memory.byteAt_of_ge {m : Memory} (hm : m.wf) {a : Nat} (ha : 4096 ≤ a) :
    m.byteAt a = Memory.unlisted a := by
  by_contra hne
  have hmem : (a, m.byteAt a) ∈ m := (Memory.mem_iff_byteAt hm (a, m.byteAt a)).2 ⟨rfl, hne⟩
  exact absurd (hm.2 _ hmem).1 (Nat.not_lt.2 ha)

/-- Canonical memories that read the same at every address are the same list of cells. -/
theorem Memory.ext_read {m m' : Memory} (hm : m.wf) (hm' : m'.wf) (h : ∀ a, m.read a = m'.read a) : m = m' := by
  have hbyte (a : Nat) : m.byteAt a = m'.byteAt a := by
    by_cases ha : a < 4096
    · simpa [Memory.read, Nat.mod_eq_of_lt ha] using h (BitVec.ofNat 12 a)
    · rw [Memory.byteAt_of_ge hm (by omega), Memory.byteAt_of_ge hm' (by omega)]
  have hirrefl : Std.Irrefl (fun p q : Host.Cell => p.1 < q.1) := ⟨fun p => lt_irrefl p.1⟩
  exact hm.1.eq_of_mem_iff hm'.1 fun c => by rw [mem_iff_byteAt hm, mem_iff_byteAt hm', hbyte]

/-! ## Addresses and words as numbers -/

theorem toNat_ea (base : Word) (k : Nat) : (ea base k).toNat = (base.toNat + k) % 4096 :=
  BitVec.toNat_ofNat _ _

theorem toNat_zextByte (b : Byte) : (zextByte b).toNat = b.toNat :=
  BitVec.toNat_setWidth_of_le (by decide)

theorem toNat_glyphAddr (b : Byte) : (glyphAddr b).toNat = 5 * b.toNat := by
  have hlt : 5 * b.toNat < 65536 := by omega
  rw [glyphAddr, BitVec.toNat_mul, toNat_zextByte]
  exact Nat.mod_eq_of_lt hlt

/-- A program byte's address, for the bytes of a program that fits (R203). -/
theorem toNat_ea_progBase {j : Nat} (hj : j < 3584) : (ea Config.progBase j).toNat = 0x200 + j := by
  rw [toNat_ea, Config.progBase]
  exact Nat.mod_eq_of_lt (by simp; omega)

/-! ## A run of stores from the base itself (R55) -/

theorem Memory.read_storeRun_getElem {m : Memory} (hm : m.wf) (base : Word) {bs : List Byte}
    (hlen : bs.length ≤ 4096) {j : Nat} (hj : j < bs.length) :
    (m.storeRun base 0 bs).read (ea base j) = bs[j] := by
  simpa using Memory.read_storeRun_inside m base 0 bs j hm hlen hj

theorem Memory.read_storeRun_of_ne {m : Memory} (hm : m.wf) (base : Word) {bs : List Byte} {a : Addr}
    (ha : ∀ j < bs.length, a ≠ ea base j) : (m.storeRun base 0 bs).read a = m.read a :=
  Memory.read_storeRun_outside m base 0 bs a hm (by simpa using ha)

/-- Fx55 stores V[k] at EA(k) (R145). -/
theorem read_storeRun_regRun (hm : s.memory.wf) {x k : Reg} (hk : k ≤ x) :
    (s.memory.storeRun s.I 0 (s.regRun x)).read (ea s.I k.val) = s.reg k := by
  have hlt : k.val < (s.regRun x).length := by simpa using Nat.lt_succ_of_le hk
  rw [Memory.read_storeRun_getElem hm s.I (by simp; omega) hlt]
  simp [State.regRun]

/-! ## RESET and power-on -/

theorem resetMachine_reg (r : Reg) : (resetMachine s).reg r = 0 := by
  simp [State.reg]

/-- A second RESET finds FONT in place already (R201). -/
theorem resetMachine_resetMachine (hm : s.memory.wf) :
    resetMachine (resetMachine s) = resetMachine s := by
  have hwf := resetMachine_wf hm
  have hmem : (resetMachine (resetMachine s)).memory = (resetMachine s).memory :=
    Memory.ext_read (resetMachine_wf hwf) hwf fun a => by
      rw [resetMachine_read hwf, resetMachine_read hm]
      split <;> simp [*]
  exact State.ext rfl rfl rfl rfl rfl rfl rfl rfl rfl rfl hmem rfl rfl rfl

/-- An unlisted address reads as the default FONT, then as the default MEM_INIT (R37). -/
theorem Memory.unlisted_eq (a : Addr) :
    Memory.unlisted a.toNat =
      if h : a.toNat < 80 then Config.defaultFont[a.toNat]
      else Config.defaultMemInit[a.toNat - 80]'(by omega) := by
  have hlen : Config.defaultFontBytes.length = 80 := rfl
  rw [Memory.unlisted]
  split
  case isTrue ha =>
    rw [List.getElem?_eq_getElem (by omega)]
    rfl
  case isFalse ha =>
    rw [List.getElem?_eq_none (by omega)]
    simp [Config.defaultMemInit]

/-! ## The obligations -/

/-- Settles O38: a canonical list of cells is fixed by its bytes. -/
theorem equalReadsAreEqualMemories : Obligations.EqualReadsAreEqualMemories := fun _ _ hm hm' h =>
  Memory.ext_read hm hm' h

/-- Settles O31: the sum reduced to twelve bits. -/
theorem effectiveAddressWrapsModulo4096 : Obligations.EffectiveAddressWrapsModulo4096 := toNat_ea

/-- Settles O32: both instructions are one write of I and the advance of pc. -/
theorem ldIAndAddIWriteTheIndex : Obligations.LdIAndAddIWriteTheIndex := by
  refine ⟨fun nnn s => ⟨decodeWord_encode (.ldI nnn), _, rfl, toNat_zextAddr nnn, rfl,
    exec_frame (i := .ldI nnn) rfl (by simp [mayWrite])⟩,
    fun x s => ⟨decodeWord_encode (.addIVx x), _, rfl, ?_, rfl,
      exec_frame (i := .addIVx x) rfl (by simp [mayWrite])⟩⟩
  rw [State.advance_I, State.setI_I, BitVec.toNat_add, toNat_zextByte]

/-- Settles O33: one write of I and the advance of pc. -/
theorem ldFPointsAtGlyph : Obligations.LdFPointsAtGlyph := fun x _ =>
  ⟨decodeWord_encode (.ldFVx x), _, rfl, toNat_glyphAddr _, rfl,
    exec_frame (i := .ldFVx x) rfl (by simp [mayWrite])⟩

/-- Settles O34: a run of three stores, read back inside and outside the run. -/
theorem ldBStoresThreeDigits : Obligations.LdBStoresThreeDigits := by
  intro x s hm
  have hdigit (j : Nat) (hj : j < 3) := Memory.read_storeRun_getElem (bs := bcdDigits (s.reg x)) hm s.I
    (by simp [bcdDigits]) (j := j) hj
  refine ⟨decodeWord_encode (.ldBVx x), _, rfl,
    (congrArg BitVec.toNat (hdigit 0 (by decide))).trans (by simp [bcdDigits]),
    (congrArg BitVec.toNat (hdigit 1 (by decide))).trans (by simp [bcdDigits]),
    (congrArg BitVec.toNat (hdigit 2 (by decide))).trans (by simp [bcdDigits]),
    fun a ha => Memory.read_storeRun_of_ne hm s.I ha, rfl,
    exec_frame (i := .ldBVx x) rfl (by simp [mayWrite])⟩

/-- Settles O35: a run of x + 1 stores, read back inside and outside the run. -/
theorem ldMemStoresRegisters : Obligations.LdMemStoresRegisters := by
  refine fun x s hm => ⟨decodeWord_encode (.ldMemVx x), _, rfl, fun k hk => read_storeRun_regRun hm hk,
    fun a ha => Memory.read_storeRun_of_ne hm s.I fun j hj => ?_, rfl,
    exec_frame (i := .ldMemVx x) rfl (by simp [mayWrite])⟩
  rw [State.regRun_length] at hj
  exact ha ⟨j, by omega⟩ (Nat.le_of_lt_succ hj)

/-- Settles O36: the run of loads, and the frame of a write of V. -/
theorem ldVxMemLoadsRegisters : Obligations.LdVxMemLoadsRegisters := fun x s =>
  ⟨decodeWord_encode (.ldVxMem x), _, rfl, fun r => s.loadRun_reg x r, by
    obtain ⟨V, hrun⟩ := s.loadRun_eq x
    simp [hrun], exec_frame (i := .ldVxMem x) rfl (by simp [mayWrite])⟩

/-- Settles O37: the bytes at EA(k) and EA(k + 1) are the two the next fetch takes. -/
theorem storedCodeIsFetchedNext : Obligations.StoredCodeIsFetchedNext := by
  intro x k s t hm hexec hk hpc hea
  cases hexec
  have hsucc : (k + 1).val = k.val + 1 := Fin.val_add_one_of_lt' (by omega)
  rw [toNat_ea] at hea
  have hfetch := State.fetch_of_addrs (s := (s.setMemory (s.memory.storeRun s.I 0 (s.regRun x))).advance)
    (a := ea s.I k.val) (b := ea s.I (k + 1).val) (by simp [toNat_ea]; omega)
    (by simp [toNat_ea, hsucc]; omega)
  rw [State.advance_memory, State.setMemory_memory, read_storeRun_regRun hm (Fin.le_def.2 (by omega)),
    read_storeRun_regRun hm (Fin.le_def.2 (hsucc ▸ hk))] at hfetch
  exact hfetch

/-- Settles O51: the fields of the reset machine, and its reads. -/
theorem resetGivesEveryElementItsValue : Obligations.ResetGivesEveryElementItsValue := fun s hm =>
  ⟨resetMachine s, rfl, rfl, rfl, rfl, resetMachine_reg, by simp, by simp, by simp, rfl, rfl, rfl,
    resetMachine_read hm, rfl⟩

/-- Settles O52: power-on is a RESET over MEM_INIT. -/
theorem powerOnHoldsFontAndMemInit : Obligations.PowerOnHoldsFontAndMemInit := by
  refine fun font memInit => ⟨State.powerOn_read font memInit, rfl, fun e he => ?_⟩
  cases e with
  | memory | font => simp at he
  | V => exact fun r => rfl
  | _ => rfl

/-- Settles O53: the default bytes are those that no memory lists. -/
theorem resetIsPowerOnWithTheDefaults : Obligations.ResetIsPowerOnWithTheDefaults := by
  have hmem : (State.powerOn Config.defaultFont Config.defaultMemInit).memory = State.reset.memory :=
    Memory.ext_read (State.powerOn_wf _ _) Memory.wf_nil fun a => by
      rw [State.powerOn_read, ← Memory.unlisted_eq]
      rfl
  exact State.ext rfl rfl rfl rfl rfl rfl rfl rfl rfl rfl hmem rfl rfl rfl

/-- Settles O54: every field but memory is the same value, and memory the same bytes. -/
theorem resetIsIdempotent : Obligations.ResetIsIdempotent := fun _ hm => resetMachine_resetMachine hm

/-- Settles O55, by the length of the program. -/
theorem loadCopiesAFittingProgram : Obligations.LoadCopiesAFittingProgram := by
  intro bytes s hm
  refine ⟨fun hfit => ?_, fun hlong => ?_, fun hempty => ?_⟩
  · have hnext : perform (.load bytes) s =
        .next (s.setMemory (s.memory.storeRun Config.progBase 0 bytes)) :=
      if_neg (Nat.not_lt.2 hfit)
    refine ⟨_, hnext, by simp [resultOf, hnext], fun a i ha => ?_, fun a ha => ?_, keepsAllBut_setMemory s _⟩
    · have hea : a = ea Config.progBase i.val :=
        BitVec.eq_of_toNat_eq (by rw [ha, toNat_ea_progBase (by omega)])
      rw [hea]
      exact Memory.read_storeRun_getElem hm _ (by omega) i.isLt
    · refine Memory.read_storeRun_of_ne hm _ fun j hj hea => ?_
      have hnum := congrArg BitVec.toNat hea
      rw [toNat_ea_progBase (by omega)] at hnum
      omega
  · have hfault : perform (.load bytes) s = .fault (.programTooLarge bytes.length) := if_pos hlong
    exact ⟨hfault, by rw [after, hfault]⟩
  · subst hempty
    rfl

end Sys2Proof.Machine

/-! Proofs of the statements on the invariant of reachable states (spec 10_state.md R38) and on programs that
keep their duties (70_reset_and_hazards.md R205), after the inversions they rest on: what an instruction can
leave in pc, in the stack and in memory. -/

namespace Sys2Proof.Machine

variable {s t : State}

/-! ## What an instruction leaves in pc, in the stack and in memory -/

/-- The next pc: kept by the waiting key wait, advanced, skipped, a jump's target, or the top of the stack. -/
theorem exec_pc_cases {i : Instr} (h : exec i s = .next t) :
    t.pc = s.pc ∨ t.pc = s.pc + 2 ∨ t.pc = s.pc + 4 ∨ (∃ nnn, t.pc = zextAddr nnn) ∨
      (∃ nnn b, t.pc = zextAddr nnn + zextByte b) ∨ (s.sp ≠ 0 ∧ t.pc = s.top) := by
  have hskip (c : Bool) : (s.skipIf c).pc = s.pc + 2 ∨ (s.skipIf c).pc = s.pc + 4 := by cases c <;> simp
  cases i with
  | ret =>
    obtain ⟨hsp, rfl⟩ := execRet_next h
    exact .inr (.inr (.inr (.inr (.inr ⟨hsp, rfl⟩))))
  | call nnn =>
    obtain ⟨hsp, rfl⟩ := execCall_next h
    exact .inr (.inr (.inr (.inl ⟨nnn, rfl⟩)))
  | jp nnn =>
    cases h
    exact .inr (.inr (.inr (.inl ⟨nnn, rfl⟩)))
  | jpV0 nnn =>
    cases h
    exact .inr (.inr (.inr (.inr (.inl ⟨nnn, _, rfl⟩))))
  | se | sne | seReg | sneReg | skp | sknp =>
    cases h
    exact .inr ((hskip _).imp_right .inl)
  | ldVxK x =>
    obtain ⟨-, rfl⟩ | ⟨k, -, rfl⟩ := execLdVxK_next h
    · exact .inl rfl
    · exact .inr (.inl rfl)
  | ldVxMem x =>
    cases h
    obtain ⟨V, hrun⟩ := s.loadRun_eq x
    exact .inr (.inl (by simp [hrun]))
  | _ =>
    cases h
    exact .inr (.inl rfl)

/-- The next stack: as before, one entry fewer, or pc + 2 pushed. -/
theorem exec_stack_cases {i : Instr} (h : exec i s = .next t) :
    (t.stack = s.stack ∧ t.sp.val ≤ s.sp.val) ∨
      ∃ hsp : s.sp.val < 16, t.stack = (s.push (s.pc + 2) hsp).stack ∧ t.sp.val = s.sp.val + 1 := by
  cases i with
  | ret =>
    obtain ⟨-, rfl⟩ := execRet_next h
    exact .inl ⟨rfl, Nat.sub_le _ _⟩
  | call nnn =>
    obtain ⟨hsp, rfl⟩ := execCall_next h
    exact .inr ⟨hsp, rfl, rfl⟩
  | _ =>
    have hframe := exec_keepsAllBut h
    exact .inl ⟨hframe .stack (by simp [mayWrite]), (congrArg Fin.val (hframe .sp (by simp [mayWrite]))).le⟩

/-- The next memory: as before, or a run of bytes stored from EA(0) up; a program that keeps its duty stores at
0x200 and above (R205 a). -/
theorem exec_memory_cases {i : Instr} (h : exec i s = .next t) :
    t.memory = s.memory ∨
      ∃ bs, t.memory = s.memory.storeRun s.I 0 bs ∧
        (instrDutyKept i s = true → ∀ k < bs.length, 0x200 ≤ (ea s.I k).toNat) := by
  cases i with
  | ret =>
    obtain ⟨-, rfl⟩ := execRet_next h
    exact .inl rfl
  | call nnn =>
    obtain ⟨-, rfl⟩ := execCall_next h
    exact .inl rfl
  | ldVxK x =>
    obtain ⟨-, rfl⟩ | ⟨k, -, rfl⟩ := execLdVxK_next h <;> exact .inl rfl
  | ldVxMem x =>
    cases h
    obtain ⟨V, hrun⟩ := s.loadRun_eq x
    exact .inl (by simp [hrun])
  | ldBVx x | ldMemVx x =>
    cases h
    exact .inr ⟨_, rfl, fun hduty => by simpa [instrDutyKept, bcdDigits] using hduty⟩
  | _ =>
    cases h
    exact .inl rfl

/-! ## The invariant is kept (R38) -/

theorem exec_wf {i : Instr} (h : exec i s = .next t) (hm : s.memory.wf) : t.memory.wf := by
  obtain hsame | ⟨bs, hrun, -⟩ := exec_memory_cases h
  · rwa [hsame]
  · rw [hrun]
    exact Memory.storeRun_wf s.memory s.I 0 bs hm

/-- A byte that lies below 0x200 is kept by an instruction that keeps its duty (R205 a). -/
theorem exec_read_low {i : Instr} (h : exec i s = .next t) (hm : s.memory.wf) (hduty : instrDutyKept i s = true)
    {a : Addr} (ha : a.toNat < 0x200) : t.memory.read a = s.memory.read a := by
  obtain hsame | ⟨bs, hrun, hhigh⟩ := exec_memory_cases h
  · rw [hsame]
  · rw [hrun]
    exact Memory.read_storeRun_of_ne hm s.I fun k hk hak => by
      have := hhigh hduty k hk
      rw [← hak] at this
      omega

/-- The valid stack entries are return addresses: two beyond an instruction that was fetched (R38). -/
def ReturnsOk (s : State) : Prop :=
  ∀ i : Fin 16, i.val < s.sp.val → 0x0002 ≤ s.stack[i.val] ∧ s.stack[i.val] ≤ 0x1000

theorem reachableInv_iff : ReachableInv s ↔ s.memory.wf ∧ s.pc ≤ 0x10FE ∧ ReturnsOk s := Iff.rfl

theorem ReturnsOk.top_le (hret : ReturnsOk s) (hsp : s.sp ≠ 0) : s.top ≤ 0x1000 := by
  have hpos : s.sp.val ≠ 0 := fun h => hsp (Fin.ext h)
  exact (hret ⟨s.sp.val - 1, by omega⟩ (by simp; omega)).2

theorem exec_pc_le {i : Instr} (h : exec i s = .next t) (hpc : s.pc ≤ Config.lastFetch) (hret : ReturnsOk s) :
    t.pc ≤ 0x10FE := by
  have hpc' : s.pc.toNat ≤ 0xFFE := hpc
  obtain ht | ht | ht | ⟨nnn, ht⟩ | ⟨nnn, b, ht⟩ | ⟨hsp, ht⟩ := exec_pc_cases h
  · bv_omega
  · bv_omega
  · bv_omega
  · have := toNat_zextAddr nnn
    bv_omega
  · have := toNat_zextAddr nnn
    have := toNat_zextByte b
    bv_omega
  · have := hret.top_le hsp
    bv_omega

theorem exec_returnsOk {i : Instr} (h : exec i s = .next t) (hpc : s.pc ≤ Config.lastFetch)
    (hret : ReturnsOk s) : ReturnsOk t := by
  obtain ⟨hstack, hsp⟩ | ⟨hlt, hstack, hsp⟩ := exec_stack_cases h
  · intro j hj
    simp only [hstack]
    exact hret j (by omega)
  · intro j hj
    simp only [hstack, State.push_stack_getElem]
    have hpc' : s.pc.toNat ≤ 0xFFE := hpc
    split
    · exact ⟨by bv_omega, by bv_omega⟩
    · exact hret j (by omega)

theorem cycle_reachableInv (h : cycle s = .next t) (hs : ReachableInv s) : ReachableInv t := by
  obtain ⟨hm, -, hret⟩ := reachableInv_iff.1 hs
  have hpc := pc_le_of_cycle_next h
  obtain ⟨_, i, -, -, hexec⟩ := cycle_next h
  exact reachableInv_iff.2 ⟨exec_wf hexec hm, exec_pc_le hexec hpc hret, exec_returnsOk hexec hpc hret⟩

/-- RESET brings the invariant about from any canonical memory (R37). -/
theorem resetMachine_reachableInv (hm : s.memory.wf) : ReachableInv (resetMachine s) :=
  ⟨resetMachine_wf hm, (by decide : (0x0200 : Word) ≤ 0x10FE), fun _ hi => absurd hi (Nat.not_lt_zero _)⟩

theorem perform_reachableInv {a : Transition} (h : perform a s = .next t) (hs : ReachableInv s) :
    ReachableInv t := by
  obtain ⟨hm, hpc, hret⟩ := reachableInv_iff.1 hs
  cases a with
  | reset =>
    cases h
    exact resetMachine_reachableInv hm
  | load bytes =>
    obtain ⟨-, rfl⟩ := loadProgram_next h
    exact ⟨Memory.storeRun_wf _ _ _ _ hm, hpc, hret⟩
  | cycle => exact cycle_reachableInv h hs
  | tick | key | drawAck =>
    cases h
    exact hs

/-! ## Duties (R205) -/

theorem dutyKept_current (h : s.dutyKept = true) : ∃ i, s.current = some i ∧ instrDutyKept i s = true := by
  simp only [State.dutyKept, Bool.and_eq_true] at h
  cases hcur : s.current with
  | none => simp [hcur] at h
  | some i =>
    simp only [hcur] at h
    exact ⟨i, rfl, h.2⟩

/-- An instruction that keeps its duty does not fault: RET has an entry to pop, CALL a slot to fill. -/
theorem exec_next_of_duty {i : Instr} (h : instrDutyKept i s = true) : ∃ t, exec i s = .next t := by
  obtain hnext | ⟨rfl, hsp, -⟩ | ⟨nnn, rfl, hsp, -⟩ := exec_next_or_fault i s
  · exact hnext
  · simp [instrDutyKept, hsp] at h
  · simp [instrDutyKept, hsp] at h

/-! ## The obligations -/

/-- Settles O58: RESET is the last thing power-on does. -/
theorem reachableInvHoldsAtReset : Obligations.ReachableInvHoldsAtReset :=
  ⟨⟨Memory.wf_nil, by decide, fun _ hi => absurd hi (Nat.not_lt_zero _)⟩,
    fun _ _ => resetMachine_reachableInv (Memory.storeRun_wf [] 0x050 0 _ Memory.wf_nil)⟩

/-- Settles O59, by the transition that is next and the three inversions of its instruction. -/
theorem everyStepKeepsReachableInv : Obligations.EveryStepKeepsReachableInv := fun s _ hs h =>
  perform_reachableInv (s := s.scheduled) h hs

/-- Settles O60: the instruction at pc goes on, and what it stores lies at 0x200 and above. -/
theorem dutifulProgramRunsAndKeepsLowMemory : Obligations.DutifulProgramRunsAndKeepsLowMemory := by
  intro s hm hs
  obtain ⟨i, hcur, hduty⟩ := dutyKept_current hs
  obtain ⟨t, hexec⟩ := exec_next_of_duty hduty
  exact ⟨t, (cycle_eq_exec_of_current hcur).trans hexec, fun a ha => exec_read_low hexec hm hduty ha⟩

end Sys2Proof.Machine

/-! Proofs of the statements on the display (spec 43_display.md), after what a DRW does to every pixel, said of
the pixels its sprite covers. -/

namespace Sys2Proof.Machine

variable {s t : State} {x y : Reg} {n : Nibble}

/-! ## The pixels a DRW covers (R152) -/

theorem spriteCovers_iff (r : Fin 32) (c : Fin 64) :
    SpriteCovers s x y n r c ↔
      SpriteBitAt s.memory s.I ((s.reg x).toNat % 64) ((s.reg y).toNat % 32) n.toNat r c := by
  simp only [SpriteCovers, SpriteBitAt, RowBitAt]
  constructor
  · rintro ⟨i, hi, j, hj, hr, hc, hbit⟩
    exact ⟨i, hi, hr, j, hj, hc, hbit⟩
  · rintro ⟨i, hi, hr, j, hj, hc, hbit⟩
    exact ⟨i, hi, j, hj, hr, hc, hbit⟩

/-- The pixels a sprite covers depend on where it starts and on what it is. -/
theorem spriteCovers_congr (hx : (t.reg x).toNat % 64 = (s.reg x).toNat % 64)
    (hy : (t.reg y).toNat % 32 = (s.reg y).toNat % 32) (hI : t.I = s.I) (hmem : t.memory = s.memory)
    (r : Fin 32) (c : Fin 64) : SpriteCovers t x y n r c ↔ SpriteCovers s x y n r c := by
  simp only [SpriteCovers, hx, hy, hI, hmem]

theorem nibble_le_fifteen (n : Nibble) : n.toNat ≤ 15 := Nat.le_of_lt_succ n.isLt

/-- A DRW toggles exactly the pixels its sprite covers. -/
theorem exec_drw_pixel (h : exec (.drw x y n) s = .next t) (r : Fin 32) (c : Fin 64)
    [Decidable (SpriteCovers s x y n r c)] :
    t.display.pixel r c = if SpriteCovers s x y n r c then !s.display.pixel r c else s.display.pixel r c := by
  cases h
  refine (blit_pixel s.memory s.I _ _ n.toNat s.display (nibble_le_fifteen n) r c).trans ?_
  simp only [spriteCovers_iff]

theorem exec_drw_pixel_of_covers (h : exec (.drw x y n) s = .next t) {r : Fin 32} {c : Fin 64}
    (hcov : SpriteCovers s x y n r c) : t.display.pixel r c = !s.display.pixel r c := by
  classical rw [exec_drw_pixel h, if_pos hcov]

theorem exec_drw_pixel_of_not_covers (h : exec (.drw x y n) s = .next t) {r : Fin 32} {c : Fin 64}
    (hcov : ¬SpriteCovers s x y n r c) : t.display.pixel r c = s.display.pixel r c := by
  classical rw [exec_drw_pixel h, if_neg hcov]

/-- VF after a DRW is 1 exactly when a covered pixel was lit. -/
theorem exec_drw_vF (h : exec (.drw x y n) s = .next t) :
    ∃ b, t.reg .vF = flagByte b ∧
      (b = true ↔ ∃ r c, SpriteCovers s x y n r c ∧ s.display.pixel r c = true) := by
  cases h
  refine ⟨_, (State.reg_setReg _ _ _ _).trans (if_pos rfl), ?_⟩
  simp only [spriteCovers_iff]
  exact blit_hit s.memory s.I _ _ n.toNat s.display (nibble_le_fifteen n)

@[simp] theorem flagByte_eq_one (b : Bool) : flagByte b = 1 ↔ b = true := by
  cases b <;> simp [flagByte]

/-! ## The obligations -/

/-- Settles O39: the display replaced by the blank one, draw_flag set. -/
theorem clsClearsTheDisplay : Obligations.ClsClearsTheDisplay :=
  ⟨decodeWord_encode .cls, fun _ => ⟨_, rfl, Display.pixel_blank, rfl, rfl,
    exec_frame (i := .cls) rfl (by simp [mayWrite])⟩⟩

/-- Settles O40, by what a DRW does to every pixel and to VF. -/
theorem drwTogglesCoveredPixels : Obligations.DrwTogglesCoveredPixels := by
  intro x y n s
  obtain ⟨t, h⟩ : ∃ t, exec (.drw x y n) s = .next t := ⟨_, rfl⟩
  obtain ⟨b, hvF, hb⟩ := exec_drw_vF h
  refine ⟨decodeWord_encode (.drw x y n), t, h, fun r c => exec_drw_pixel_of_covers h,
    fun r c => exec_drw_pixel_of_not_covers h, fun hlit => ?_, fun hunlit => ?_,
    fun r hr => exec_reg_of_not_mayWriteReg h (by simpa [mayWriteReg] using hr), ?_, ?_,
    exec_frame h (by simp [mayWrite])⟩
  · rw [hvF, hb.2 hlit]
    rfl
  · have hb' : b = false := by
      by_contra hne
      obtain ⟨r, c, hcov, hlit⟩ := hb.1 (by simpa using hne)
      rw [hunlit r c hcov] at hlit
      cases hlit
    rw [hvF, hb']
    rfl
  · cases h
    rfl
  · cases h
    rfl

/-- Settles O41: both draws cover the same pixels, and a pixel toggled twice is as before. -/
theorem drawingTwiceRestoresTheDisplay : Obligations.DrawingTwiceRestoresTheDisplay := by
  intro x y n s t h hx hy
  obtain ⟨u, hu⟩ : ∃ u, exec (.drw x y n) t = .next u := ⟨_, rfl⟩
  have hI : t.I = s.I := exec_keepsAllBut h .I (by simp [mayWrite])
  have hmem : t.memory = s.memory := by
    cases h
    rfl
  have hcov := spriteCovers_congr (n := n) hx hy hI hmem
  refine ⟨u, hu, Display.ext_pixel _ _ fun r c => ?_, ?_⟩
  · by_cases hc : SpriteCovers s x y n r c
    · rw [exec_drw_pixel_of_covers hu ((hcov r c).2 hc), exec_drw_pixel_of_covers h hc, Bool.not_not]
    · rw [exec_drw_pixel_of_not_covers hu (mt (hcov r c).1 hc), exec_drw_pixel_of_not_covers h hc]
  · obtain ⟨b, hvF, hb⟩ := exec_drw_vF hu
    have hvF' : u.reg 15 = flagByte b := hvF
    rw [hvF', flagByte_eq_one, hb]
    simp only [hcov]

/-- Settles O42: the rows one after the other. -/
theorem displayOutIsRowMajor : Obligations.DisplayOutIsRowMajor := by
  intro s r c
  have hrow : (r.val * 64 + c.val) / 64 = r.val := by omega
  have hcol : (r.val * 64 + c.val) % 64 = c.val := by omega
  simp only [State.displayOut, Vector.getElem_flatten, hrow, hcol, Display.pixel]

end Sys2Proof.Machine

/-! Proofs of the statements on the rest of control flow (spec 40_control_flow.md), on the arithmetic of
registers and RND (41_register_ops.md), and on keypad, KEY and DRAW_ACK (44_keypad_timers.md, 60_exceptions.md). -/

namespace Sys2Proof.Machine

variable {s t : State}

/-! ## Calls and returns -/

/-- The top of the stack depends on the stack and its depth alone. -/
theorem State.top_congr (hstack : t.stack = s.stack) (hsp : t.sp = s.sp) : t.top = s.top := by
  simp only [State.top, hstack, hsp]

/-- CALLs that fit on the stack run, and the depth rises by their number (R103). -/
theorem execAll_calls {targets : List Addr} (h : s.sp.val + targets.length ≤ 16) :
    ∃ t, execAll (targets.map .call) s = .next t ∧ t.sp.val = s.sp.val + targets.length := by
  induction targets generalizing s with
  | nil => exact ⟨s, rfl, rfl⟩
  | cons nnn targets ih =>
    rw [List.length_cons] at h
    have hlt : s.sp.val < 16 := by omega
    obtain ⟨t, hrun, hsp⟩ := ih (s := (s.push (s.pc + 2) hlt).setPc (zextAddr nnn)) (by simp; omega)
    refine ⟨t, by rw [List.map_cons, execAll, exec_call_of_lt nnn hlt]; exact hrun, ?_⟩
    rw [hsp, List.length_cons]
    simp
    omega

theorem State.hasEnded_iff : s.hasEnded = true ↔ ∃ nnn, s.current = some (.jp nnn) ∧ zextAddr nnn = s.pc := by
  unfold State.hasEnded
  split
  next nnn hcur => simp [hcur]
  next hother => simpa using fun nnn hcur => absurd hcur (hother nnn)

/-! ## The flags of a sum and of a difference, as numbers (R127, R128, R130) -/

theorem toNat_carryOut (a b : Byte) : (carryOut a b).toNat = if a.toNat + b.toNat > 255 then 1 else 0 := by
  rw [carryOut, Bool.toNat, Bool.cond_decide]

theorem toNat_notBorrow (a b : Byte) : (notBorrow a b).toNat = if a.toNat ≥ b.toNat then 1 else 0 := by
  rw [notBorrow, Bool.toNat, Bool.cond_decide]

theorem toNat_sub_byte (a b : Byte) : (a - b).toNat = (a.toNat + 256 - b.toNat) % 256 := by
  have := b.isLt
  rw [BitVec.toNat_sub]
  congr 1
  omega

/-! ## The key wait and the keys (R161 to R163) -/

theorem State.waiting_iff :
    s.waiting = true ↔ (∃ x, s.current = some (.ldVxK x)) ∧ s.lowestKey = none := by
  unfold State.waiting
  rw [show s.fetch.bind decodeWord = s.current from rfl]
  split
  next x hcur => simp [hcur]
  next hother => simpa using fun x hcur => absurd hcur (hother x)

/-- Waiting is the result of a CYCLE that goes on in a waiting state (R8, R190). -/
theorem resultOf_cycle_eq_waiting :
    resultOf .cycle s = some .waiting ↔ (∃ t, cycle s = .next t) ∧ s.waiting = true := by
  have hperform : perform .cycle s = cycle s := rfl
  unfold resultOf
  rw [hperform]
  cases cycle s <;> cases hw : s.waiting <;> simp

theorem keyOf_eq {k : Key} {b : Byte} (h : k.val = b.toNat % 16) : keyOf b = k :=
  Fin.ext h.symm

theorem State.skipIf_pc_ite (s : State) (c : Bool) :
    (s.skipIf c).pc = if c = true then s.pc + 4 else s.pc + 2 := by
  cases c <;> rfl

theorem State.skipIf_not_pc_ite (s : State) (c : Bool) :
    (s.skipIf !c).pc = if c = true then s.pc + 2 else s.pc + 4 := by
  cases c <;> rfl

theorem keepsAllBut_setKey (s : State) (k : Key) (b : Bool) : KeepsAllBut [.keypad] s (s.setKey k b) := by
  intro e he
  cases e with
  | keypad => simp at he
  | _ => simp [Kept]

/-! ## The obligations -/

/-- Settles O16: RET pops the entry the CALL pushed. -/
theorem retAfterCallResumesAfterTheCall : Obligations.RetAfterCallResumesAfterTheCall := by
  intro nnn s hlt
  refine ⟨_, exec_call_of_lt nnn hlt, fun t' hstack hsp => ?_⟩
  have hsp' : t'.sp = (s.push (s.pc + 2) hlt).sp := hsp
  have hpos : t'.sp ≠ 0 := fun h =>
    Nat.succ_ne_zero s.sp.val (congrArg Fin.val (hsp'.symm.trans h))
  refine ⟨_, exec_ret_of_pos hpos, (State.top_congr hstack hsp').trans (s.top_push _ hlt), ?_⟩
  rw [← s.sp_pop_push (s.pc + 2) hlt]
  simp only [State.setPc_sp, State.pop_sp, hsp']

/-- Settles O17, by induction on the CALLs: the depth counts them, and a seventeenth finds it at 16. -/
theorem seventeenthNestedCallOverflows : Obligations.SeventeenthNestedCallOverflows := by
  intro targets s hlen hsp
  obtain ⟨t, hrun, ht⟩ := execAll_calls (s := s) (targets := targets) (by simp [hsp, hlen])
  have hfull : t.sp = 16 := Fin.ext (by simpa [hsp, hlen] using ht)
  exact ⟨t, hrun, hfull, fun nnn => exec_call_of_full nnn hfull⟩

/-- Settles O19: both instructions are a skip, on equality and on difference of two registers. -/
theorem skipsComparingRegisters : Obligations.SkipsComparingRegisters := fun x y s =>
  ⟨decodeWord_encode (.seReg x y), decodeWord_encode (.sneReg x y),
    ⟨_, rfl, keepsAllBut_skipIf s _, s.skipIf_beq_pc _ _⟩,
    ⟨_, rfl, keepsAllBut_skipIf s _, s.skipIf_bne_pc _ _⟩⟩

/-- Settles O20: a twelve-bit and an eight-bit number, whose sum stays below 65536. -/
theorem jpV0AddsV0 : Obligations.JpV0AddsV0 := by
  refine fun nnn s => ⟨decodeWord_encode (.jpV0 nnn), _, rfl, ?_, keepsAllBut_setPc s _⟩
  rw [State.setPc_pc, BitVec.toNat_add, toNat_zextAddr, toNat_zextByte]
  exact Nat.mod_eq_of_lt (by omega)

/-- Settles O21: the jump writes the value pc has. -/
theorem endedRunStaysAsItIs : Obligations.EndedRunStaysAsItIs := by
  intro s h
  obtain ⟨nnn, hcur, hpc⟩ := State.hasEnded_iff.1 h
  have hexec : exec (.jp nnn) s = .next (s.setPc (zextAddr nnn)) := rfl
  rw [cycle_eq_exec_of_current hcur, hexec, hpc]
  rfl

/-- Settles O25: V[x] gets the sum mod 256, then VF the carry. -/
theorem addRegWrapsAndSetsCarry : Obligations.AddRegWrapsAndSetsCarry := fun x y s =>
  ⟨decodeWord_encode (.addReg x y), _, rfl, rfl, keepsAllBut_setRegThenFlag_advance s x _ _, fun r => by
    rw [State.advance_reg, State.toNat_reg_setRegThenFlag, toNat_carryOut, BitVec.toNat_add]⟩

/-- Settles O26: V[x] gets the difference mod 256, then VF the not-borrow. -/
theorem subWrapsAndSetsNotBorrow : Obligations.SubWrapsAndSetsNotBorrow := fun x y s =>
  ⟨decodeWord_encode (.sub x y), _, rfl, rfl, keepsAllBut_setRegThenFlag_advance s x _ _, fun r => by
    rw [State.advance_reg, State.toNat_reg_setRegThenFlag, toNat_notBorrow, toNat_sub_byte]⟩

/-- Settles O28: as SUB, with the operands exchanged. -/
theorem subnWrapsAndSetsNotBorrow : Obligations.SubnWrapsAndSetsNotBorrow := fun x y s =>
  ⟨decodeWord_encode (.subn x y), _, rfl, rfl, keepsAllBut_setRegThenFlag_advance s x _ _, fun r => by
    rw [State.advance_reg, State.toNat_reg_setRegThenFlag, toNat_notBorrow, toNat_sub_byte]⟩

/-- Settles O30: V[x] gets the byte drawn and kk, and the count of draws rises. -/
theorem rndLoadsMaskedRandomByte : Obligations.RndLoadsMaskedRandomByte := by
  refine fun x kk s => ⟨decodeWord_encode (.rnd x kk), _, rfl, fun r => s.drawn.reg_setReg x r _, ?_, rfl, rfl,
    exec_frame (i := .rnd x kk) rfl (by simp [mayWrite])⟩
  rw [State.advance_reg, State.reg_setReg, if_pos rfl, BitVec.toNat_and]
  exact Nat.and_le_right

/-- Settles O43: both instructions are a skip on the latch that the low four bits select. -/
theorem skipsTestingAKey : Obligations.SkipsTestingAKey := by
  intro x s k hk
  rw [← keyOf_eq hk]
  exact ⟨decodeWord_encode (.skp x), decodeWord_encode (.sknp x),
    ⟨_, rfl, keepsAllBut_skipIf s _, s.skipIf_pc_ite _⟩,
    ⟨_, rfl, keepsAllBut_skipIf s _, s.skipIf_not_pc_ite _⟩⟩

/-- Settles O44, by what the search for the lowest key finds. -/
theorem keyWaitWaitsOrLoadsLowestKey : Obligations.KeyWaitWaitsOrLoadsLowestKey := by
  refine fun x s => ⟨decodeWord_encode (.ldVxK x),
    fun hnone => exec_ldVxK_of_none x (s.lowestKey_none.2 hnone), fun k hk hlow => ?_⟩
  have hexec := exec_ldVxK_of_some x ((s.lowestKey_some k).2 ⟨hk, hlow⟩)
  refine ⟨_, hexec, fun r => ?_, rfl, keepsAllBut_setReg_advance s x _⟩
  rw [State.advance_reg, State.toNat_reg_setReg, BitVec.toNat_ofNat, Nat.mod_eq_of_lt (by omega)]

/-- Settles O45: a state that waits is one whose key wait finds no key, and its CYCLE changes nothing. -/
theorem waitingIsReportedForTheKeyWaitAlone : Obligations.WaitingIsReportedForTheKeyWaitAlone := by
  intro s
  rw [resultOf_cycle_eq_waiting, State.waiting_iff, State.lowestKey_none]
  constructor
  · rintro ⟨-, ⟨x, hcur⟩, hnone⟩
    exact ⟨⟨x, hcur⟩, hnone,
      (cycle_eq_exec_of_current hcur).trans (exec_ldVxK_of_none x (s.lowestKey_none.2 hnone))⟩
  · rintro ⟨hcur, hnone, hcycle⟩
    exact ⟨⟨s, hcycle⟩, hcur, hnone⟩

/-- Settles O50: each is one write. -/
theorem keyAndDrawAckWriteOneElement : Obligations.KeyAndDrawAckWriteOneElement :=
  ⟨fun k b s => ⟨_, rfl, rfl, fun j => s.keyDown_setKey k j b, keepsAllBut_setKey s k b⟩,
    fun s => ⟨_, rfl, rfl, rfl, keepsAllBut_setDrawFlag s false⟩⟩

end Sys2Proof.Machine
